-- ==== Sys2Proof/Word.lean ====
section
/-! DEFINITION. The word types of the KJ316 and the index types of its tables (00_scope.md section 6). -/

namespace Sys2Proof

/-- One octet of a telegram or of an entry image. -/
abbrev Octet := BitVec 8
/-- A 16-bit word of a payload, a mask or a statistics counter. -/
abbrev Word16 := BitVec 16
/-- A point value as its 32-bit pattern (R1, R5). -/
abbrev Word32 := BitVec 32
/-- A segment address 0..63 (R91). -/
abbrev Addr := Fin 64
/-- A telegram sequence 0..3 (R90). -/
abbrev Seq := Fin 4

/-- Point numbers 0..383. -/
abbrev PointNo := Fin 384
/-- Node entries 0..15. -/
abbrev NodeNo := Fin 16
/-- Derived entries 0..31. -/
abbrev DerivedNo := Fin 32
/-- Interlock entries 0..47. -/
abbrev InterlockNo := Fin 48
/-- Terms of one interlock entry, numbered from 0 here (the manual numbers them from 1). -/
abbrev TermNo := Fin 4
/-- Local inputs 0..7. -/
abbrev InputNo := Fin 8
/-- Local outputs 0..7. -/
abbrev OutputNo := Fin 8
/-- Capture channels 0..3. -/
abbrev ChannelNo := Fin 4

end Sys2Proof
end

