-- ==== Sys2Proof/Syntax.lean ====
section
/-! DEFINITION. The commands of the KJ316: one constructor per row of spec/opcode_table.json, in the
table's order. A row's operands are those its rule gives the command (R175 for MANAGE commands, the
telegram's fields for EXCHANGE, FETCH and FORWARD, the port, segment, timer or pin an event
concerns). A grant of the Image Update Arbiter has no operand: the request carries what it writes
(R18). -/

namespace Sys2Proof

/-- The three ports (R82). -/
inductive Port where
  | spreader | cab | drive
  deriving DecidableEq, Repr

/-- The two segments on which the part is master. -/
inductive Seg where
  | spreader | cab
  deriving DecidableEq, Repr

/-- The inputs of a capture channel; Z is channel 0's index input (R163). -/
inductive CapInput where
  | a | b | z
  deriving DecidableEq, Repr

/-- The commands. `seq` is the sequence of the telegram that carries the command. `time` is the
instant of a pin's change on the model's clock (log entry 2). -/
inductive Instr where
  /-- EXCHANGE (R172). -/
  | exchange (seq : Seq) (payload : List Octet)
  /-- EXCHANGE_UPDATE (R13). -/
  | exchangeUpdate
  /-- READ_ENTRY (R176). -/
  | readEntry (seq : Seq) (table : Octet) (entry : Word16)
  /-- WRITE_ENTRY (R176). -/
  | writeEntry (seq : Seq) (table : Octet) (entry : Word16) (image : List Octet)
  /-- CLEAR_TABLE (R176). -/
  | clearTable (seq : Seq) (table : Octet)
  /-- START (R180). -/
  | start (seq : Seq)
  /-- STOP (R182). -/
  | stop (seq : Seq)
  /-- RESTART (R183). -/
  | restart (seq : Seq)
  /-- FORCE (R21). -/
  | force (seq : Seq) (point : Word16) (value : Word32)
  /-- RELEASE (R23). -/
  | release (seq : Seq) (point : Word16)
  /-- RELEASE_ALL (R24). -/
  | releaseAll (seq : Seq)
  /-- BYPASS (R76). -/
  | bypass (seq : Seq) (entry : Octet) (seconds : Word16)
  /-- CANCEL_BYPASS (R78). -/
  | cancelBypass (seq : Seq) (entry : Octet)
  /-- SET_MASK (R133). -/
  | setMask (seq : Seq) (node : Octet) (mask : Word16)
  /-- SET_ATTENTION_MASK (R184). -/
  | setAttentionMask (seq : Seq) (mask : Word16)
  /-- CLEAR_ATTENTION (R184). -/
  | clearAttention (seq : Seq) (flags : Word16)
  /-- READ_STATUS (R185). -/
  | readStatus (seq : Seq) (part : Octet)
  /-- RESET_COUNTERS (R185). -/
  | resetCounters (seq : Seq)
  /-- FETCH (R146); its payload is not read. -/
  | fetch (seq : Seq) (payload : List Octet)
  /-- FORWARD (R139). -/
  | forward (seq : Seq) (dest : Addr) (payload : List Octet)
  /-- TELEGRAM_END (R96). -/
  | telegramEnd (port : Port)
  /-- RECEPTION_BROKEN (R95). -/
  | receptionBroken (port : Port)
  /-- RECEPTION_OVERLONG (R95). -/
  | receptionOverlong (port : Port)
  /-- END_OF_TRANSMISSION (R84). -/
  | endOfTransmission (port : Port)
  /-- CYCLE_START (R129). -/
  | cycleStart
  /-- REPLY_WINDOW_EXPIRY (R126). -/
  | replyWindowExpiry (seg : Seg)
  /-- TURNAROUND_EXPIRY (R127). -/
  | turnaroundExpiry (seg : Seg)
  /-- ANSWER_WINDOW_EXPIRY (R144). -/
  | answerWindowExpiry (seg : Seg)
  /-- HOLD_TIMER_EXPIRY (R9). -/
  | holdTimerExpiry (point : PointNo)
  /-- HOLD_EXPIRY_UPDATE (R10). -/
  | holdExpiryUpdate
  /-- REPLY_INTAKE_UPDATE (R114). -/
  | replyIntakeUpdate
  /-- NODE_LOSS_UPDATE (R113). -/
  | nodeLossUpdate
  /-- DRIVE_SILENCE_EXPIRY (R174). -/
  | driveSilenceExpiry
  /-- DRIVE_SILENCE_UPDATE (R14). -/
  | driveSilenceUpdate
  /-- TERM_HOLD_EXPIRY (R69). -/
  | termHoldExpiry (entry : InterlockNo) (term : TermNo)
  /-- TERM_HOLD_UPDATE (R69). -/
  | termHoldUpdate
  /-- BYPASS_TIMER_EXPIRY (R79). -/
  | bypassTimerExpiry (entry : InterlockNo)
  /-- BYPASS_EXPIRY_UPDATE (R79). -/
  | bypassExpiryUpdate
  /-- START_TIMER_EXPIRY (R181). -/
  | startTimerExpiry
  /-- ENTRY_TO_RUN (R181). -/
  | entryToRun
  /-- INPUT_LEVEL_CHANGE (R150). -/
  | inputLevelChange (input : InputNo) (level : Bool) (time : Nat)
  /-- INPUT_DEBOUNCE_EXPIRY (R150). -/
  | inputDebounceExpiry (input : InputNo)
  /-- LINE_LEVEL_UPDATE (R15). -/
  | lineLevelUpdate
  /-- LAMP_STEP_EXPIRY (R155). -/
  | lampStepExpiry
  /-- PERIOD_START (R156). -/
  | periodStart (output : OutputNo)
  /-- ON_TIMER_EXPIRY (R156). -/
  | onTimerExpiry (output : OutputNo)
  /-- PHASE_TIMER_EXPIRY (R157). -/
  | phaseTimerExpiry (output : OutputNo)
  /-- CAPTURE_LEVEL_CHANGE (R163); `levels` names each input whose line level changes at this
  instant, usually one. Two inputs in one command are read as one pair (R168, log entry 5). -/
  | captureLevelChange (channel : ChannelNo) (levels : List (CapInput × Bool)) (time : Nat)
  /-- CAPTURE_DEBOUNCE_EXPIRY (R163); `inputs` names each input whose timer expires at this
  instant, usually one. -/
  | captureDebounceExpiry (channel : ChannelNo) (inputs : List CapInput)
  /-- CHANNEL_TIMEOUT_EXPIRY (R166). -/
  | channelTimeoutExpiry (channel : ChannelNo)
  /-- SAMPLE_TIMER_EXPIRY (R164). -/
  | sampleTimerExpiry (channel : ChannelNo)
  /-- SAMPLE_UPDATE (R164). -/
  | sampleUpdate
  /-- RESET_LINE (R183). -/
  | resetLine
  /-- POWER_ON (R183). -/
  | powerOn
  /-- OPENING_FENCE (R88). -/
  | openingFence (port : Port)
  /-- CONTENT_OCTET_COLLECTED (R89). -/
  | contentOctetCollected (port : Port) (octet : Octet)
  /-- RECEPTION_ENDED_WITHOUT_OUTCOME (R88). -/
  | receptionEndedWithoutOutcome (port : Port)
  /-- RESET_LINE_RELEASE (R183). -/
  | resetLineRelease
  /-- POWER_LOSS (R84). -/
  | powerLoss
  deriving DecidableEq, Repr

end Sys2Proof
end

