-- ==== Sys2Proof/Decode.lean ====
section
/-! DEFINITION. The command a word spells by the bits of spec/opcode_table.json. No row of this
table gives bits (every row's "fields" is empty: the commands are telegrams, grants and events),
so no word spells a command. How a telegram's octets spell one is Machine/Service.lean's. -/

namespace Sys2Proof

/-- The command that the `nbits`-bit word `w` spells: none, as no row of the table gives bits. -/
def decodeTableWord (_nbits _w : Nat) : Option Instr := none

end Sys2Proof
end

