-- ==== Sys2Proof/Config.lean ====
section
/-! DEFINITION. What the manual fixes once for every part: reserved addresses, list limits, and the
unit of the model's clock. The manual leaves no implementation-defined value open, so no constant
here is free. -/

namespace Sys2Proof.Config

/-- Address 62 is the junction (R91). -/
def junction : Addr := 62
/-- Address 63 is all nodes (R91). -/
def allNodes : Addr := 63
/-- A telegram carries at most 250 payload octets (R90). -/
def maxPayload : Nat := 250
/-- A reception holds at most 256 octets (R82, R88). -/
def maxContent : Nat := 256
/-- At most 16 points are forced (R5). -/
def maxForced : Nat := 16
/-- At most 4 bypass records (R76). -/
def maxBypasses : Nat := 4
/-- Each forward queue holds up to 4 forwards (R141). -/
def maxForwards : Nat := 4
/-- The return queue holds up to 4 records (R145). -/
def maxReturns : Nat := 4

/-- Clock units in a microsecond. The unit is 1/16 µs, the coarsest in which every duration of the
manual is a whole number (39.0625 µs of R156 is 625 units). DESIGN CHOICE, log entry 2. -/
def microsecond : Nat := 16
/-- Clock units in a millisecond. -/
def millisecond : Nat := 16000
/-- Clock units in a second. -/
def second : Nat := 16000000
/-- Clock units in 1/256 of a DUTY period, 39.0625 µs (R156). -/
def dutyUnit : Nat := 625

end Sys2Proof.Config
end

