-- ==== Sys2Proof/Machine/State.lean ====
section
/-! DEFINITION. The state of the KJ316 as plain data, with every piece of state the manual names, and
its value right after power-on or the release of the reset line (INVENTORY.md lists each with its
rule). -/

namespace Sys2Proof.Machine

/-! ## Names of the manual -/

/-- The modes of the part (00_scope.md section 5, R181). -/
inductive Mode where
  | config | starting | run
  deriving DecidableEq, Repr

/-- Point sources (R2). -/
inductive Source where
  | unused | node | plc | line | channel | state | derived | feed
  deriving DecidableEq, Repr

/-- Point forms (R2). -/
inductive Form where
  | bin | word | ana | cnt
  deriving DecidableEq, Repr

/-- Stale policies (R2, R7). -/
inductive Policy where
  | hold | safe
  deriving DecidableEq, Repr

/-- Targets of an OUT point (R2). -/
inductive TargetKind where
  | nothing | nodeOutBit | nodeOutWord | localOut
  deriving DecidableEq, Repr

/-- Point qualities (R6). -/
inductive Quality where
  | unset | good | limited | stale | substituted | forced
  deriving DecidableEq, Repr

/-- Kinds of derived entry (R43). -/
inductive DerivedKind where
  | unused | sum | ratio | trip
  deriving DecidableEq, Repr

/-- Modes of an interlock entry (R65). -/
inductive InterlockMode where
  | unused | level | rearm
  deriving DecidableEq, Repr

/-- Tests of a term (R67). -/
inductive TermTest where
  | isOne | isZero | atLeast | atMost
  deriving DecidableEq, Repr

/-- States of a term (R68). -/
inductive TermState where
  | unsatisfied | timing | held
  deriving DecidableEq, Repr

/-- Modes of a local output (R152). -/
inductive OutputMode where
  | steady | pattern | train | duty
  deriving DecidableEq, Repr

/-- Modes of a capture channel (R161). -/
inductive ChannelMode where
  | off | count | period | width | quad
  deriving DecidableEq, Repr

/-- Index actions (R161, R169). -/
inductive IndexAction where
  | nothing | presetOnce | presetEvery
  deriving DecidableEq, Repr

/-- Link states of a node (R108). -/
inductive LinkState where
  | absent | silent | online | suspect | lost | rejoining
  deriving DecidableEq, Repr

/-- Telegram kinds (R92). -/
inductive Kind where
  | poll | reply | safe | exchange | exchangeAnswer | manage | manageAnswer | fetch | fetchAnswer
  | forward | forwardAnswer | forwardAck
  deriving DecidableEq, Repr

/-- Receive outcomes in the order of R100. -/
inductive RxOutcome where
  | taken | notForUs | short | overlong | badCheck | broken | lengthMismatch | badHeader | unexpected
  deriving DecidableEq, Repr

/-- Node counters in the order of R117. -/
inductive NodeCounter where
  | pollsSent | goodReplies | timeout | noise | format | identity | lateReplies | skips
  deriving DecidableEq, Repr

/-- The twelve attention flags in bit order (R184). -/
inductive Attention where
  | nodeLost | nodeIdentity | cycleOverrun | plcSilent | startIncomplete | bypassEnded
  | returnOverwritten | channelEvent | trainIgnored | pointStale | lineFault | checkRefused
  deriving DecidableEq, Repr

/-! ## Configuration tables -/

/-- A point record's configuration fields (R2). -/
structure PointCfg where
  source : Source := .unused
  refA : Fin 32 := 0
  refB : PointNo := 0
  form : Form := .bin
  invert : Bool := false
  low : Word32 := 0
  high : Word32 := 0
  zero : Word32 := 0
  gain : Word16 := 0
  /-- 0..60000 ms. -/
  holdLimit : Nat := 0
  policy : Policy := .hold
  safeValue : Word32 := 0
  /-- `none` is 255, unguarded. -/
  guard : Option InterlockNo := some 0
  targetKind : TargetKind := .nothing
  targetA : Fin 16 := 0
  targetB : Fin 64 := 0
  blocked : Word32 := 0
  deriving DecidableEq, Repr

/-- A node entry's configuration fields (R102). -/
structure NodeCfg where
  enabled : Bool := false
  segment : Seg := .spreader
  address : Addr := 0
  expectedType : Octet := 0
  /-- 0..64. -/
  inputBits : Nat := 0
  /-- 0..8. -/
  inputWords : Nat := 0
  /-- 0..64. -/
  outputBits : Nat := 0
  /-- 0..4. -/
  outputWords : Nat := 0
  pollMask : Word16 := 0
  /-- 1..15. -/
  missLimit : Nat := 3
  /-- 1..8. -/
  rejoinCount : Nat := 3
  deriving DecidableEq, Repr

/-- A member of a derived entry and its weight (R43). -/
structure Member where
  point : PointNo := 0
  /-- −8..+8. -/
  weight : Int := 0
  deriving DecidableEq, Repr

/-- A derived entry's configuration fields (R43). -/
structure DerivedCfg where
  kind : DerivedKind := .unused
  result : PointNo := 0
  /-- The member count, 0..4. -/
  count : Fin 5 := 0
  members : Vector Member 4 := Vector.replicate 4 {}
  /-- FALLING when set, RISING otherwise. -/
  falling : Bool := false
  setLevel : Word32 := 0
  resetLevel : Word32 := 0
  failValue : Bool := false
  deriving DecidableEq, Repr

/-- One term of an interlock entry (R65). -/
structure TermCfg where
  point : PointNo := 0
  test : TermTest := .isOne
  level : Word32 := 0
  /-- 0..1000, in units of 10 ms. -/
  hold : Nat := 0
  deriving DecidableEq, Repr

/-- An interlock entry's configuration fields (R65). -/
structure InterlockCfg where
  mode : InterlockMode := .unused
  bypassable : Bool := false
  /-- The term count, 0..4. -/
  count : Fin 5 := 0
  terms : Vector TermCfg 4 := Vector.replicate 4 {}
  deriving DecidableEq, Repr

/-- A forward entry's configuration fields (R137). -/
structure ForwardCfg where
  /-- `none` is NONE, an unused entry. -/
  target : Option Seg := none
  matchValue : Addr := 0
  matchMask : Addr := 0
  answerExpected : Bool := false
  deriving DecidableEq, Repr

/-- A local output entry's configuration fields (R152). -/
structure OutputCfg where
  mode : OutputMode := .steady
  inverted : Bool := false
  stepMask : Word16 := 0
  /-- Units of 10 ms. -/
  highTime : Octet := 0
  /-- Units of 10 ms. -/
  lowTime : Octet := 0
  /-- 255 is none. -/
  enableInput : Octet := 255
  disablingLevel : Bool := false
  deriving DecidableEq, Repr

/-- A local input entry's configuration field (R149), in ms. -/
structure InputCfg where
  debounce : Octet := 0
  deriving DecidableEq, Repr

/-- A channel entry's configuration fields (R161). -/
structure ChannelCfg where
  mode : ChannelMode := .off
  /-- In µs. -/
  debounce : Octet := 0
  /-- 1..100 ms. -/
  interval : Nat := 10
  /-- 10..5000 ms. -/
  timeout : Nat := 1000
  /-- 0..2,147,483,647; 0 is no limit. -/
  limit : Nat := 0
  /-- −2,147,483,647..2,147,483,647. -/
  preset : Int := 0
  index : IndexAction := .nothing
  deriving DecidableEq, Repr

/-- The GLOBAL entry (R177). -/
structure GlobalCfg where
  /-- 20..1000, in 0.1 ms. -/
  cyclePeriod : Nat := 100
  /-- 1..16 slots. -/
  patternPeriod : Nat := 1
  /-- 5..500, in 10 µs. -/
  spreaderWindow : Nat := 50
  /-- 5..500, in 10 µs. -/
  cabWindow : Nat := 50
  /-- 0..255 µs. -/
  spreaderTurnaround : Nat := 20
  /-- 0..255 µs. -/
  cabTurnaround : Nat := 20
  /-- 1..60 s. -/
  startTimeout : Nat := 10
  /-- 10..5000 ms. -/
  silenceLimit : Nat := 200
  /-- 5..100, in 10 ms. -/
  lampStep : Nat := 25
  /-- 1..16 steps. -/
  lampLength : Nat := 4
  plcAddress : Addr := 1
  deriving DecidableEq, Repr

/-- The eleven tables (R176). A list entry of `none` is 65535, unused (R178). -/
structure Tables where
  points : Vector PointCfg 384 := Vector.replicate 384 {}
  nodes : Vector NodeCfg 16 := Vector.replicate 16 {}
  derived : Vector DerivedCfg 32 := Vector.replicate 32 {}
  interlocks : Vector InterlockCfg 48 := Vector.replicate 48 {}
  forwards : Vector ForwardCfg 8 := Vector.replicate 8 {}
  writeList : Vector (Option PointNo) 32 := Vector.replicate 32 none
  emitList : Vector (Option PointNo) 48 := Vector.replicate 48 none
  outputs : Vector OutputCfg 8 := Vector.replicate 8 {}
  inputs : Vector InputCfg 8 := Vector.replicate 8 {}
  channels : Vector ChannelCfg 4 := Vector.replicate 4 {}
  global : GlobalCfg := {}
  deriving DecidableEq, Repr

/-! ## Runtime of each block -/

/-- A timer, held as the instant at which it runs out on the model's clock (log entry 2).
`expired` is a timer whose expiry has requested an update that is not yet granted or discarded; it
counts as running (R9). The instant tells one run of a timer from another (R10, R69, R79). -/
inductive Timer where
  | stopped
  | running (due : Nat)
  | expired (due : Nat)
  deriving DecidableEq, Repr

/-- A raw value as it is kept until it is converted (R29 to R31, R39, R42). -/
inductive Raw where
  /-- An input bit, an accepted level, or a node's state. -/
  | bit (b : Bool)
  /-- A 16-bit word of a reply or of an EXCHANGE. -/
  | word (w : Word16)
  /-- A channel measurement. -/
  | measure (m : Word32)
  /-- The accumulated advance of a forced CNT point (R39). -/
  | advance (n : Word32)
  deriving DecidableEq, Repr

/-- The withheld intake of a forced point (R5). -/
inductive Withheld where
  | absent
  | fresh (r : Raw)
  | aged (r : Raw)
  deriving DecidableEq, Repr

/-- A point's runtime fields (R5) with the seed mark of R37. The forced flag is read off the forced
list (log entry 12). -/
structure PointRt where
  value : Word32 := 0
  quality : Quality := .unset
  lastRaw : Word16 := 0
  seed : Bool := false
  hold : Timer := .stopped
  forcedValue : Word32 := 0
  withheld : Withheld := .absent
  latch : Bool := false
  deriving DecidableEq, Repr

/-- The MANAGE commands with their operands as the telegram carries them (R175). -/
inductive Command where
  | readEntry (table : Octet) (entry : Word16)
  | writeEntry (table : Octet) (entry : Word16) (image : List Octet)
  | clearTable (table : Octet)
  | start
  | stop
  | restart
  | force (point : Word16) (value : Word32)
  | release (point : Word16)
  | releaseAll
  | bypass (entry : Octet) (seconds : Word16)
  | cancelBypass (entry : Octet)
  | setMask (node : Octet) (mask : Word16)
  | setAttentionMask (mask : Word16)
  | clearAttention (flags : Word16)
  | readStatus (part : Octet)
  | resetCounters
  deriving DecidableEq, Repr

/-- A request in the arbiter's list, with what it will write as it stood when it was made (R18). A
request of a timer carries the instant at which its run ran out, and an accepted level the instant at
which it was accepted. -/
inductive Request where
  | holdExpiry (point : PointNo) (due : Nat)
  | driveSilence (due : Nat)
  | termHold (entry : InterlockNo) (term : TermNo) (due : Nat)
  | bypassExpiry (entry : InterlockNo) (due : Nat)
  | startTimer (due : Nat)
  /-- `rise` is set when the node came from SILENT, LOST or REJOINING (R114). -/
  | replyIntake (node : NodeNo) (payload : List Octet) (rise : Bool)
  /-- The instant is that of the reply window's expiry that is the miss, where it is one. -/
  | nodeLoss (node : NodeNo) (instant : Option Nat)
  | exchange (values : List Word16)
  | lineLevel (input : InputNo) (level : Bool) (instant : Nat)
  | sample (channel : ChannelNo) (measurement : Word32) (due : Nat)
  | entryToRun
  | manage (command : Command)
  deriving DecidableEq, Repr

/-- A term's state and hold timer (R68). -/
structure TermRt where
  state : TermState := .unsatisfied
  timer : Timer := .stopped
  deriving DecidableEq, Repr

/-- An interlock entry's runtime (R70, R72). -/
structure InterlockRt where
  terms : Vector TermRt 4 := Vector.replicate 4 {}
  permit : Bool := false
  effective : Bool := false
  deriving DecidableEq, Repr

/-- A record of the bypass list (R76). -/
structure Bypass where
  entry : InterlockNo
  timer : Timer
  deriving DecidableEq, Repr

/-- A telegram the part sends or has received (R90), without its length and check. -/
structure Telegram where
  dest : Addr
  src : Addr
  kind : Kind
  seq : Seq
  payload : List Octet
  deriving DecidableEq, Repr

/-- For whom a telegram is sent: what its end of transmission means (R84). -/
inductive Owner where
  /-- The POLL of the exchange with this node. -/
  | poll (node : NodeNo)
  /-- The forward in flight; `wanted` is its answer wanted field. -/
  | forward (wanted : Bool)
  | safe
  | answer
  /-- A POLL or forward whose work was abandoned while it was being sent (R134). -/
  | abandoned
  deriving DecidableEq, Repr

/-- A telegram with its owner. -/
structure Outgoing where
  telegram : Telegram
  owner : Owner
  deriving DecidableEq, Repr

/-- What a node port awaits (R82). -/
inductive Awaited where
  | nothing
  | reply (from_ : Addr)
  | forwardAnswer
  deriving DecidableEq, Repr

/-- Receiver states (R88). -/
inductive RxState where
  | seeking | receiving
  deriving DecidableEq, Repr

/-- A port (R82). The transmitter is busy exactly while `sending` holds a telegram. The collected content
is `content`, its whole octets, and `bits`, the content bits that follow them (log entry 7). -/
structure PortRt where
  rx : RxState := .seeking
  content : List Octet := []
  bits : List Bool := []
  rxOpen : Bool := true
  sending : Option Outgoing := none
  awaited : Awaited := .nothing
  counters : Vector Word16 9 := Vector.replicate 9 0
  /-- Re-initialise at the end of this transmission (RESTART while sending, R84). -/
  reinit : Bool := false
  deriving DecidableEq, Repr

/-- A node entry's runtime (R104). -/
structure NodeRt where
  link : LinkState := .absent
  misses : Nat := 0
  goods : Nat := 0
  lossPending : Bool := false
  lastSeq : Seq := 3
  counters : Vector Word16 8 := Vector.replicate 8 0
  deriving DecidableEq, Repr

/-- Segment work (R123). `begun` is set when the POLL's sending has begun: until then the exchange
is not in flight (R124). -/
inductive SegWork where
  | stopped
  | exchange (node : NodeNo) (begun : Bool)
  | forward
  | turnaround
  | gap
  | done
  deriving DecidableEq, Repr

/-- A forward in a queue or in flight (R141). -/
structure Forward where
  tag : BitVec 8
  dest : Addr
  answerWanted : Bool
  payload : List Octet
  deriving DecidableEq, Repr

/-- A segment of the Poll Scheduler (R119) with its forward queue and forward in flight (R141,
R142). -/
structure SegRt where
  work : SegWork := .stopped
  pollList : List NodeNo := []
  next : Nat := 0
  forwardSent : Bool := false
  window : Timer := .stopped
  windowExpired : Bool := false
  turnaround : Timer := .stopped
  overruns : Word16 := 0
  /-- Telegrams ready while the transmitter is busy, in the order they will be handed over (R84). -/
  outbox : List Outgoing := []
  queue : List Forward := []
  inFlight : Option Forward := none
  answerWindow : Timer := .stopped
  answerExpired : Bool := false
  deriving DecidableEq, Repr

/-- Outcomes of a return record (R145). -/
inductive ReturnOutcome where
  | answered (address : Addr) (payload : List Octet)
  | garbled
  | noAnswer
  | sent
  | dropped
  deriving DecidableEq, Repr

/-- A return record (R145). -/
structure ReturnRecord where
  tag : BitVec 8
  outcome : ReturnOutcome
  deriving DecidableEq, Repr

/-- An input line with its debouncer (R149, R150, R163). -/
structure Debounced where
  line : Bool := false
  accepted : Bool := false
  timer : Timer := .stopped
  deriving DecidableEq, Repr

/-- A local input's runtime (R149). -/
structure InputRt where
  pin : Debounced := {}
  changes : Word16 := 0
  deriving DecidableEq, Repr

/-- A train's remaining count (R157). -/
inductive Remaining where
  | count (n : Nat)
  | endless
  deriving DecidableEq, Repr

/-- A train (R157, R159); `high` is its phase, HIGH when set. A paused train keeps the time left of
its phase. -/
inductive Train where
  | idle
  | running (high : Bool) (timer : Timer) (remaining : Remaining)
  | paused (high : Bool) (left : Nat) (remaining : Remaining)
  deriving DecidableEq, Repr

/-- A local output's runtime (R153, R156 to R158). -/
structure OutputRt where
  active : Bool := false
  last : Word32 := 0
  train : Train := .idle
  period : Timer := .stopped
  onTimer : Timer := .stopped
  ignored : Word16 := 0
  deriving DecidableEq, Repr

/-- The edge stage of a PERIOD or WIDTH channel, with the time of the kept edge (R162). -/
inductive Stage where
  | waiting
  | timing (since : Nat)
  deriving DecidableEq, Repr

/-- A capture channel's runtime (R162). -/
structure ChannelRt where
  a : Debounced := {}
  b : Debounced := {}
  z : Debounced := {}
  count : Int := 0
  reached : Bool := false
  position : Int := 0
  lastPair : Bool × Bool := (false, false)
  stage : Stage := .waiting
  timed : Nat := 0
  timeout : Timer := .stopped
  homed : Bool := false
  sample : Timer := .stopped
  errors : Word16 := 0
  deriving DecidableEq, Repr

/-- The telegrams the Drive Port takes (R97). -/
inductive DriveKind where
  | exchange | manage | fetch | forward
  deriving DecidableEq, Repr

/-- A TAKEN telegram as the Drive Service holds it (R171). -/
structure DriveTelegram where
  kind : DriveKind
  dest : Addr
  seq : Seq
  payload : List Octet
  deriving DecidableEq, Repr

/-- How far the service of a telegram has come (R171). -/
inductive ServiceStage where
  /-- Its command has not been carried out yet. -/
  | toServe
  /-- Its update waits for its grant. -/
  | requested
  /-- Its answer waits for the Drive Port's transmitter; `restarts` for the answer of a RESTART,
  whose re-initialisation waits for the hand-over (R183). -/
  | answered (answer : Telegram) (restarts : Bool)
  deriving DecidableEq, Repr

/-- The telegram being served (R171). -/
structure Service where
  telegram : DriveTelegram
  stage : ServiceStage
  deriving DecidableEq, Repr

/-- One value for each port. -/
structure PerPort (α : Type) where
  spreader : α
  cab : α
  drive : α
  deriving DecidableEq, Repr

/-- One value for each of the spreader and cab segments. -/
structure PerSeg (α : Type) where
  spreader : α
  cab : α
  deriving DecidableEq, Repr

/-- The machine. Plain data, no function. -/
structure State where
  /-- The commands that wait, first in, first out. -/
  pending : List Instr := []
  /-- The model's clock in units of 1/16 µs (log entry 2). -/
  now : Nat := 0
  /-- The supply is present (R84, R183). -/
  powered : Bool := true
  /-- The reset line is held active (R183). -/
  resetHeld : Bool := false
  mode : Mode := .config
  tables : Tables := {}
  points : Vector PointRt 384 := Vector.replicate 384 {}
  /-- The forced list (R5). -/
  forced : List PointNo := []
  /-- The arbiter's list, oldest first (R18). -/
  arbiter : List Request := []
  /-- The trip states (R46). -/
  trips : Vector Bool 32 := Vector.replicate 32 false
  interlocks : Vector InterlockRt 48 := Vector.replicate 48 {}
  bypasses : List Bypass := []
  ports : PerPort PortRt := ⟨{}, {}, {}⟩
  nodes : Vector NodeRt 16 := Vector.replicate 16 {}
  cycleTimer : Timer := .stopped
  slot : Nat := 0
  segs : PerSeg SegRt := ⟨{}, {}⟩
  returns : List ReturnRecord := []
  /-- The tag counter (R140). -/
  tag : BitVec 8 := 0
  inputs : Vector InputRt 8 := Vector.replicate 8 {}
  outputs : Vector OutputRt 8 := Vector.replicate 8 {}
  lampIndex : Nat := 0
  lampTimer : Timer := .stopped
  channels : Vector ChannelRt 4 := Vector.replicate 4 {}
  service : Option Service := none
  waiting : Option DriveTelegram := none
  startTimer : Timer := .stopped
  silenceTimer : Timer := .stopped
  exchangeTaken : Bool := false
  plcSilent : Bool := false
  /-- The test of R181 has held since the last START. -/
  runRequested : Bool := false
  attention : BitVec 12 := 0
  mask : BitVec 12 := BitVec.allOnes 12
  deriving DecidableEq, Repr

/-- Why the machine stops. The manual gives the part no machine fault: what goes wrong is a receive
outcome, a result code, a quality or an attention flag, and the part goes on. So there is none. -/
inductive Fault where
  deriving DecidableEq, Repr

/-- Why a command has no meaning. -/
inductive Refusal where
  /-- Raised by `exec` alone, for a row that has no meaning yet; safe. No arm raises it. -/
  | notModelled (mnemonic : String)
  deriving DecidableEq, Repr

/-- The part right after power-on or the release of the reset line (R183): in CONFIG, every table at
its power-on contents (R2, R43, R65, R102, R137, R149, R152, R161, R177, R178) and every runtime
field as R5, R46, R72, R82, R104, R119, R140, R145, R149, R153, R155, R162 and R184 give. The input
pins stand at 0: DESIGN CHOICE, log entry 3. -/
def State.reset : State := {}

end Sys2Proof.Machine
end

