-- ==== Sys2Proof/Machine/Bits.lean ====
section
/-! DEFINITION. Octets of multi-octet fields (R1), saturating counters, and the two ways the model
goes through a vector of records: change every record by its index, and list the indices whose
record passes a test. -/

namespace Sys2Proof.Machine

/-- Two octets, high octet first (R1). -/
def octets16 (w : Word16) : List Octet := [w.extractLsb' 8 8, w.extractLsb' 0 8]

/-- Four octets, high octet first (R1). -/
def octets32 (w : Word32) : List Octet :=
  [w.extractLsb' 24 8, w.extractLsb' 16 8, w.extractLsb' 8 8, w.extractLsb' 0 8]

/-- The 16-bit field of two octets, high octet first (R1). -/
def word16 (hi lo : Octet) : Word16 := hi ++ lo

/-- The 32-bit field of four octets, high octet first (R1). -/
def word32 (a b c d : Octet) : Word32 := a ++ b ++ c ++ d

/-- The number that octets spell, high octet first (R1). -/
def octetsNat : List Octet → Nat
  | [] => 0
  | o :: os => o.toNat * 256 ^ os.length + octetsNat os

/-- The `n` octets of a number, high octet first (R1). -/
def natOctets : (n : Nat) → Nat → List Octet
  | 0, _ => []
  | n + 1, x => BitVec.ofNat 8 (x / 256 ^ n) :: natOctets n x

/-- A payload as its 16-bit values, high octet first (R30). An odd last octet is dropped. -/
def words16 : List Octet → List Word16
  | hi :: lo :: rest => word16 hi lo :: words16 rest
  | _ => []

/-- A statistics counter goes up by one and holds at 65535 (00_scope.md section 6). -/
def bump (c : Word16) : Word16 := if c = 0xFFFF then c else c + 1

/-- One octet 0 or 1. -/
def octetOfBool (b : Bool) : Octet := if b then 1 else 0

/-- The value 0 or 1 of a BIN point. -/
def wordOfBool (b : Bool) : Word32 := if b then 1 else 0

/-- Change every record of a vector, each by its index. -/
def updAll {α : Type} {n : Nat} (f : Fin n → α → α) (v : Vector α n) : Vector α n :=
  ⟨⟨List.zipWith f (List.finRange n) v.toList⟩, by simp⟩

/-- The indices, in ascending order, of the records that pass a test. -/
def indicesOf {α : Type} {n : Nat} (test : α → Bool) (v : Vector α n) : List (Fin n) :=
  ((List.finRange n).zip v.toList).filterMap fun p => if test p.2 then some p.1 else none

/-- Change one record of a vector. -/
def updOne {α : Type} {n : Nat} (v : Vector α n) (i : Fin n) (f : α → α) : Vector α n :=
  v.set i (f v[i])

end Sys2Proof.Machine
end

