-- ==== Sys2Proof/Machine/Fields.lean ====
section
/-! DEFINITION. The entry images of the eleven tables (R2, R43, R65, R102, R137, R149, R152, R161, R177,
R178): each table's fields with their widths and ranges, the image of an entry, and the entry of an
image. -/

namespace Sys2Proof.Machine

/-! ## Codes of the named fields -/

def Source.code : Source → Int
  | .unused => 0 | .node => 1 | .plc => 2 | .line => 3 | .channel => 4 | .state => 5 | .derived => 6
  | .feed => 7

def Source.ofCode (n : Int) : Source :=
  if n = 1 then .node else if n = 2 then .plc else if n = 3 then .line else if n = 4 then .channel
  else if n = 5 then .state else if n = 6 then .derived else if n = 7 then .feed else .unused

def Form.code : Form → Int
  | .bin => 0 | .word => 1 | .ana => 2 | .cnt => 3

def Form.ofCode (n : Int) : Form :=
  if n = 1 then .word else if n = 2 then .ana else if n = 3 then .cnt else .bin

def Policy.code : Policy → Int
  | .hold => 0 | .safe => 1

def Policy.ofCode (n : Int) : Policy := if n = 1 then .safe else .hold

def TargetKind.code : TargetKind → Int
  | .nothing => 0 | .nodeOutBit => 1 | .nodeOutWord => 2 | .localOut => 3

def TargetKind.ofCode (n : Int) : TargetKind :=
  if n = 1 then .nodeOutBit else if n = 2 then .nodeOutWord else if n = 3 then .localOut
  else .nothing

def DerivedKind.code : DerivedKind → Int
  | .unused => 0 | .sum => 1 | .ratio => 2 | .trip => 3

def DerivedKind.ofCode (n : Int) : DerivedKind :=
  if n = 1 then .sum else if n = 2 then .ratio else if n = 3 then .trip else .unused

def InterlockMode.code : InterlockMode → Int
  | .unused => 0 | .level => 1 | .rearm => 2

def InterlockMode.ofCode (n : Int) : InterlockMode :=
  if n = 1 then .level else if n = 2 then .rearm else .unused

def TermTest.code : TermTest → Int
  | .isOne => 0 | .isZero => 1 | .atLeast => 2 | .atMost => 3

def TermTest.ofCode (n : Int) : TermTest :=
  if n = 1 then .isZero else if n = 2 then .atLeast else if n = 3 then .atMost else .isOne

def OutputMode.code : OutputMode → Int
  | .steady => 0 | .pattern => 1 | .train => 2 | .duty => 3

def OutputMode.ofCode (n : Int) : OutputMode :=
  if n = 1 then .pattern else if n = 2 then .train else if n = 3 then .duty else .steady

def ChannelMode.code : ChannelMode → Int
  | .off => 0 | .count => 1 | .period => 2 | .width => 3 | .quad => 4

def ChannelMode.ofCode (n : Int) : ChannelMode :=
  if n = 1 then .count else if n = 2 then .period else if n = 3 then .width else if n = 4 then .quad
  else .off

def IndexAction.code : IndexAction → Int
  | .nothing => 0 | .presetOnce => 1 | .presetEvery => 2

def IndexAction.ofCode (n : Int) : IndexAction :=
  if n = 1 then .presetOnce else if n = 2 then .presetEvery else .nothing

/-- The target segment of a forward entry (R137). -/
def targetCode : Option Seg → Int
  | none => 0 | some .spreader => 1 | some .cab => 2

def targetOfCode (n : Int) : Option Seg :=
  if n = 1 then some .spreader else if n = 2 then some .cab else none

def segCode : Seg → Int
  | .spreader => 0 | .cab => 1

def segOfCode (n : Int) : Seg := if n = 1 then .cab else .spreader

def boolCode (b : Bool) : Int := if b then 1 else 0

def boolOfCode (n : Int) : Bool := decide (n ≠ 0)

/-- The guard field: 255 is unguarded (R2). -/
def guardCode : Option InterlockNo → Int
  | none => 255
  | some e => e.val

def guardOfCode (n : Int) : Option InterlockNo :=
  if h : n.toNat < 48 then some ⟨n.toNat, h⟩ else none

/-- A list entry: 65535 is unused (R178). -/
def listCode : Option PointNo → Int
  | none => 65535
  | some p => p.val

def listOfCode (n : Int) : Option PointNo :=
  if h : n.toNat < 384 then some ⟨n.toNat, h⟩ else none

/-! ## Fields -/

/-- A field of an entry image: its width in octets, the range WRITE ENTRY accepts, and one further
value it accepts. A field whose range includes negative values is two's complement (R1). -/
structure Field where
  octets : Nat
  lo : Int
  hi : Int
  also : Option Int := none
  deriving DecidableEq, Repr

/-- The field accepts a value. -/
def Field.accepts (f : Field) (v : Int) : Bool :=
  (decide (f.lo ≤ v) && decide (v ≤ f.hi)) || f.also == some v

/-- The number a field's octets spell (R1). -/
def Field.read (f : Field) (octets : List Octet) : Int :=
  let n := octetsNat octets
  if f.lo < 0 ∧ 2 * n ≥ 256 ^ f.octets then (n : Int) - (256 ^ f.octets : Nat) else n

/-- The octets of a number in a field (R1). -/
def Field.write (f : Field) (v : Int) : List Octet :=
  natOctets f.octets (v % (256 ^ f.octets : Nat)).toNat

/-- A 4-octet field of any signed value. -/
def Field.signed32 : Field := ⟨4, -2147483648, 2147483647, none⟩

/-- The fields of each table (R176 lists the tables), by table id. -/
def fieldsOf : Nat → List Field
  | 1 => -- POINT (R2)
    [⟨1, 0, 7, none⟩, ⟨1, 0, 31, none⟩, ⟨2, 0, 383, none⟩, ⟨1, 0, 3, none⟩, ⟨1, 0, 1, none⟩,
      .signed32, .signed32, .signed32, ⟨2, -32768, 32767, none⟩, ⟨2, 0, 60000, none⟩,
      ⟨1, 0, 1, none⟩, .signed32, ⟨1, 0, 47, some 255⟩, ⟨1, 0, 3, none⟩, ⟨1, 0, 15, none⟩,
      ⟨1, 0, 63, none⟩, .signed32]
  | 2 => -- NODE (R102)
    [⟨1, 0, 1, none⟩, ⟨1, 0, 1, none⟩, ⟨1, 0, 63, none⟩, ⟨1, 1, 254, none⟩, ⟨1, 0, 64, none⟩,
      ⟨1, 0, 8, none⟩, ⟨1, 0, 64, none⟩, ⟨1, 0, 4, none⟩, ⟨2, 0, 65535, none⟩, ⟨1, 1, 15, none⟩,
      ⟨1, 1, 8, none⟩]
  | 3 => -- DERIVED (R43)
    [⟨1, 0, 3, none⟩, ⟨2, 0, 383, none⟩, ⟨1, 0, 4, none⟩,
      ⟨2, 0, 383, none⟩, ⟨1, -8, 8, none⟩, ⟨2, 0, 383, none⟩, ⟨1, -8, 8, none⟩,
      ⟨2, 0, 383, none⟩, ⟨1, -8, 8, none⟩, ⟨2, 0, 383, none⟩, ⟨1, -8, 8, none⟩,
      ⟨1, 0, 1, none⟩, .signed32, .signed32, ⟨1, 0, 1, none⟩]
  | 4 => -- INTERLOCK (R65)
    let term : List Field := [⟨2, 0, 383, none⟩, ⟨1, 0, 3, none⟩, .signed32, ⟨2, 0, 1000, none⟩]
    [⟨1, 0, 2, none⟩, ⟨1, 0, 1, none⟩, ⟨1, 0, 4, none⟩] ++ term ++ term ++ term ++ term
  | 5 => -- FORWARD (R137)
    [⟨1, 0, 2, none⟩, ⟨1, 0, 63, none⟩, ⟨1, 0, 63, none⟩, ⟨1, 0, 1, none⟩]
  | 6 | 7 => -- WRITE LIST, EMIT LIST (R178)
    [⟨2, 0, 383, some 65535⟩]
  | 8 => -- LOCAL OUTPUT (R152)
    [⟨1, 0, 3, none⟩, ⟨1, 0, 1, none⟩, ⟨2, 0, 65535, none⟩, ⟨1, 0, 255, none⟩, ⟨1, 0, 255, none⟩,
      ⟨1, 0, 255, none⟩, ⟨1, 0, 1, none⟩]
  | 9 => -- LOCAL INPUT (R149)
    [⟨1, 0, 255, none⟩]
  | 10 => -- CHANNEL (R161)
    [⟨1, 0, 4, none⟩, ⟨1, 0, 255, none⟩, ⟨1, 1, 100, none⟩, ⟨2, 10, 5000, none⟩,
      ⟨4, 0, 2147483647, none⟩, ⟨4, -2147483647, 2147483647, none⟩, ⟨1, 0, 2, none⟩]
  | 11 => -- GLOBAL (R177)
    [⟨2, 20, 1000, none⟩, ⟨1, 1, 16, none⟩, ⟨2, 5, 500, none⟩, ⟨2, 5, 500, none⟩,
      ⟨1, 0, 255, none⟩, ⟨1, 0, 255, none⟩, ⟨1, 1, 60, none⟩, ⟨2, 10, 5000, none⟩,
      ⟨1, 5, 100, none⟩, ⟨1, 1, 16, none⟩, ⟨1, 1, 61, none⟩]
  | _ => []

/-- How many entries each table has (R176). -/
def entriesOf : Nat → Nat
  | 1 => 384 | 2 => 16 | 3 => 32 | 4 => 48 | 5 => 8 | 6 => 32 | 7 => 48 | 8 => 8 | 9 => 8 | 10 => 4
  | 11 => 1 | _ => 0

/-- The octets of an entry image (R176). -/
def imageLength (fields : List Field) : Nat := fields.foldr (fun f n => f.octets + n) 0

/-- The values an image spells, field by field. -/
def readImage : List Field → List Octet → List Int
  | [], _ => []
  | f :: fs, octets => f.read (octets.take f.octets) :: readImage fs (octets.drop f.octets)

/-- The image of a list of values, field by field. -/
def writeImage : List Field → List Int → List Octet
  | [], _ => []
  | f :: fs, vs => f.write (vs.headD 0) ++ writeImage fs vs.tail

/-- The number of the first field, in field order, whose value is out of range, counted from `k`
(R176). -/
def firstBadField (k : Nat) : List Field → List Int → Option Nat
  | [], _ => none
  | f :: fs, vs => if f.accepts (vs.headD 0) then firstBadField (k + 1) fs vs.tail else some k

/-! ## Entries -/

/-- Field number `k` of the manual's table, counted from 1. -/
def fld (vs : List Int) (k : Nat) : Int := vs.getD (k - 1) 0

def bv (n : Nat) (v : Int) : BitVec n := BitVec.ofInt n v

/-- A number of a bounded range; the range check of WRITE ENTRY has passed. -/
def fin (n : Nat) [NeZero n] (v : Int) : Fin n := Fin.ofNat n v.toNat

def PointCfg.values (c : PointCfg) : List Int :=
  [c.source.code, c.refA.val, c.refB.val, c.form.code, boolCode c.invert, c.low.toInt, c.high.toInt,
    c.zero.toInt, c.gain.toInt, c.holdLimit, c.policy.code, c.safeValue.toInt, guardCode c.guard,
    c.targetKind.code, c.targetA.val, c.targetB.val, c.blocked.toInt]

def PointCfg.ofValues (v : List Int) : PointCfg where
  source := .ofCode (fld v 1)
  refA := fin 32 (fld v 2)
  refB := fin 384 (fld v 3)
  form := .ofCode (fld v 4)
  invert := boolOfCode (fld v 5)
  low := bv 32 (fld v 6)
  high := bv 32 (fld v 7)
  zero := bv 32 (fld v 8)
  gain := bv 16 (fld v 9)
  holdLimit := (fld v 10).toNat
  policy := .ofCode (fld v 11)
  safeValue := bv 32 (fld v 12)
  guard := guardOfCode (fld v 13)
  targetKind := .ofCode (fld v 14)
  targetA := fin 16 (fld v 15)
  targetB := fin 64 (fld v 16)
  blocked := bv 32 (fld v 17)

def NodeCfg.values (c : NodeCfg) : List Int :=
  [boolCode c.enabled, segCode c.segment, c.address.val, c.expectedType.toNat, c.inputBits,
    c.inputWords, c.outputBits, c.outputWords, c.pollMask.toNat, c.missLimit, c.rejoinCount]

def NodeCfg.ofValues (v : List Int) : NodeCfg where
  enabled := boolOfCode (fld v 1)
  segment := segOfCode (fld v 2)
  address := fin 64 (fld v 3)
  expectedType := bv 8 (fld v 4)
  inputBits := (fld v 5).toNat
  inputWords := (fld v 6).toNat
  outputBits := (fld v 7).toNat
  outputWords := (fld v 8).toNat
  pollMask := bv 16 (fld v 9)
  missLimit := (fld v 10).toNat
  rejoinCount := (fld v 11).toNat

def DerivedCfg.values (c : DerivedCfg) : List Int :=
  [c.kind.code, c.result.val, c.count.val,
    c.members[0].point.val, c.members[0].weight, c.members[1].point.val, c.members[1].weight,
    c.members[2].point.val, c.members[2].weight, c.members[3].point.val, c.members[3].weight,
    boolCode c.falling, c.setLevel.toInt, c.resetLevel.toInt, boolCode c.failValue]

def DerivedCfg.ofValues (v : List Int) : DerivedCfg where
  kind := .ofCode (fld v 1)
  result := fin 384 (fld v 2)
  count := fin 5 (fld v 3)
  members := #v[⟨fin 384 (fld v 4), fld v 5⟩, ⟨fin 384 (fld v 6), fld v 7⟩,
    ⟨fin 384 (fld v 8), fld v 9⟩, ⟨fin 384 (fld v 10), fld v 11⟩]
  falling := boolOfCode (fld v 12)
  setLevel := bv 32 (fld v 13)
  resetLevel := bv 32 (fld v 14)
  failValue := boolOfCode (fld v 15)

def TermCfg.values (t : TermCfg) : List Int := [t.point.val, t.test.code, t.level.toInt, t.hold]

/-- The term whose first field has number `k`. -/
def TermCfg.ofValues (v : List Int) (k : Nat) : TermCfg where
  point := fin 384 (fld v k)
  test := .ofCode (fld v (k + 1))
  level := bv 32 (fld v (k + 2))
  hold := (fld v (k + 3)).toNat

def InterlockCfg.values (c : InterlockCfg) : List Int :=
  [c.mode.code, boolCode c.bypassable, (c.count.val : Int)] ++ c.terms[0].values ++
    c.terms[1].values ++ c.terms[2].values ++ c.terms[3].values

def InterlockCfg.ofValues (v : List Int) : InterlockCfg where
  mode := .ofCode (fld v 1)
  bypassable := boolOfCode (fld v 2)
  count := fin 5 (fld v 3)
  terms := #v[.ofValues v 4, .ofValues v 8, .ofValues v 12, .ofValues v 16]

def ForwardCfg.values (c : ForwardCfg) : List Int :=
  [targetCode c.target, c.matchValue.val, c.matchMask.val, boolCode c.answerExpected]

def ForwardCfg.ofValues (v : List Int) : ForwardCfg where
  target := targetOfCode (fld v 1)
  matchValue := fin 64 (fld v 2)
  matchMask := fin 64 (fld v 3)
  answerExpected := boolOfCode (fld v 4)

def OutputCfg.values (c : OutputCfg) : List Int :=
  [c.mode.code, boolCode c.inverted, c.stepMask.toNat, c.highTime.toNat, c.lowTime.toNat,
    c.enableInput.toNat, boolCode c.disablingLevel]

def OutputCfg.ofValues (v : List Int) : OutputCfg where
  mode := .ofCode (fld v 1)
  inverted := boolOfCode (fld v 2)
  stepMask := bv 16 (fld v 3)
  highTime := bv 8 (fld v 4)
  lowTime := bv 8 (fld v 5)
  enableInput := bv 8 (fld v 6)
  disablingLevel := boolOfCode (fld v 7)

def InputCfg.values (c : InputCfg) : List Int := [c.debounce.toNat]

def InputCfg.ofValues (v : List Int) : InputCfg where
  debounce := bv 8 (fld v 1)

def ChannelCfg.values (c : ChannelCfg) : List Int :=
  [c.mode.code, c.debounce.toNat, c.interval, c.timeout, c.limit, c.preset, c.index.code]

def ChannelCfg.ofValues (v : List Int) : ChannelCfg where
  mode := .ofCode (fld v 1)
  debounce := bv 8 (fld v 2)
  interval := (fld v 3).toNat
  timeout := (fld v 4).toNat
  limit := (fld v 5).toNat
  preset := fld v 6
  index := .ofCode (fld v 7)

def GlobalCfg.values (c : GlobalCfg) : List Int :=
  [c.cyclePeriod, c.patternPeriod, c.spreaderWindow, c.cabWindow, c.spreaderTurnaround,
    c.cabTurnaround, c.startTimeout, c.silenceLimit, c.lampStep, c.lampLength, c.plcAddress.val]

def GlobalCfg.ofValues (v : List Int) : GlobalCfg where
  cyclePeriod := (fld v 1).toNat
  patternPeriod := (fld v 2).toNat
  spreaderWindow := (fld v 3).toNat
  cabWindow := (fld v 4).toNat
  spreaderTurnaround := (fld v 5).toNat
  cabTurnaround := (fld v 6).toNat
  startTimeout := (fld v 7).toNat
  silenceLimit := (fld v 8).toNat
  lampStep := (fld v 9).toNat
  lampLength := (fld v 10).toNat
  plcAddress := fin 64 (fld v 11)

/-- The field values of entry `e` of table `t`; none where there is no such entry (R176). -/
def Tables.values (ts : Tables) (t e : Nat) : Option (List Int) :=
  match t with
  | 1 => ts.points[e]?.map PointCfg.values
  | 2 => ts.nodes[e]?.map NodeCfg.values
  | 3 => ts.derived[e]?.map DerivedCfg.values
  | 4 => ts.interlocks[e]?.map InterlockCfg.values
  | 5 => ts.forwards[e]?.map ForwardCfg.values
  | 6 => ts.writeList[e]?.map fun p => [listCode p]
  | 7 => ts.emitList[e]?.map fun p => [listCode p]
  | 8 => ts.outputs[e]?.map OutputCfg.values
  | 9 => ts.inputs[e]?.map InputCfg.values
  | 10 => ts.channels[e]?.map ChannelCfg.values
  | 11 => if e = 0 then some ts.global.values else none
  | _ => none

/-- The tables with every field of entry `e` of table `t` replaced (R176). -/
def Tables.setValues (ts : Tables) (t e : Nat) (v : List Int) : Tables :=
  match t with
  | 1 => { ts with points := ts.points.setIfInBounds e (.ofValues v) }
  | 2 => { ts with nodes := ts.nodes.setIfInBounds e (.ofValues v) }
  | 3 => { ts with derived := ts.derived.setIfInBounds e (.ofValues v) }
  | 4 => { ts with interlocks := ts.interlocks.setIfInBounds e (.ofValues v) }
  | 5 => { ts with forwards := ts.forwards.setIfInBounds e (.ofValues v) }
  | 6 => { ts with writeList := ts.writeList.setIfInBounds e (listOfCode (fld v 1)) }
  | 7 => { ts with emitList := ts.emitList.setIfInBounds e (listOfCode (fld v 1)) }
  | 8 => { ts with outputs := ts.outputs.setIfInBounds e (.ofValues v) }
  | 9 => { ts with inputs := ts.inputs.setIfInBounds e (.ofValues v) }
  | 10 => { ts with channels := ts.channels.setIfInBounds e (.ofValues v) }
  | 11 => if e = 0 then { ts with global := .ofValues v } else ts
  | _ => ts

/-- The tables with every entry of table `t` at its power-on contents (R176). -/
def Tables.cleared (ts : Tables) (t : Nat) : Tables :=
  let fresh : Tables := {}
  match t with
  | 1 => { ts with points := fresh.points }
  | 2 => { ts with nodes := fresh.nodes }
  | 3 => { ts with derived := fresh.derived }
  | 4 => { ts with interlocks := fresh.interlocks }
  | 5 => { ts with forwards := fresh.forwards }
  | 6 => { ts with writeList := fresh.writeList }
  | 7 => { ts with emitList := fresh.emitList }
  | 8 => { ts with outputs := fresh.outputs }
  | 9 => { ts with inputs := fresh.inputs }
  | 10 => { ts with channels := fresh.channels }
  | 11 => { ts with global := fresh.global }
  | _ => ts

/-- The entry image READ ENTRY returns (R176). -/
def Tables.image (ts : Tables) (t e : Nat) : Option (List Octet) :=
  (ts.values t e).map (writeImage (fieldsOf t))

end Sys2Proof.Machine
end

