-- ==== Sys2Proof/Machine/LineCoding.lean ====
section
/-! DEFINITION. Telegrams as octets with their check, and octets as line bits (R86 to R94). The rows
of the table deliver whole octets and line marks; how line bits become these is `lineEvents`. -/

namespace Sys2Proof.Machine

/-! ## Telegram layout -/

/-- The kind code (R92). -/
def Kind.code : Kind → Nat
  | .poll => 1 | .reply => 2 | .safe => 3 | .exchange => 4 | .exchangeAnswer => 5 | .manage => 6
  | .manageAnswer => 7 | .fetch => 8 | .fetchAnswer => 9 | .forward => 10 | .forwardAnswer => 11
  | .forwardAck => 12

/-- The kind of a code; codes 0 and 13..15 are not kinds (R92). -/
def Kind.ofCode : Nat → Option Kind
  | 1 => some .poll | 2 => some .reply | 3 => some .safe | 4 => some .exchange
  | 5 => some .exchangeAnswer | 6 => some .manage | 7 => some .manageAnswer | 8 => some .fetch
  | 9 => some .fetchAnswer | 10 => some .forward | 11 => some .forwardAnswer
  | 12 => some .forwardAck | _ => none

/-- x^16 + x^15 + x^11 + x^9 + x^8 + x^7 + x^5 + x^4 + x^2 + x + 1 without its x^16 term (R93). -/
def checkPolynomial : Word16 := 0x8BB7

/-- One data bit through the check register (R93 step 3). -/
def checkBit (reg : Word16) (bit : Bool) : Word16 :=
  let shifted := reg <<< 1
  if reg.msb != bit then shifted ^^^ checkPolynomial else shifted

/-- One octet through the check register, most significant bit first (R93 step 2). -/
def checkOctet (reg : Word16) (o : Octet) : Word16 :=
  [7, 6, 5, 4, 3, 2, 1, 0].foldl (fun r k => checkBit r (o.getLsbD k)) reg

/-- The check of a list of octets (R93). -/
def check (octets : List Octet) : Word16 := octets.foldl checkOctet 0xFFFF

/-- Destination, source, kind octet, length and payload (R90). -/
def Telegram.body (t : Telegram) : List Octet :=
  BitVec.ofNat 8 t.dest.val :: BitVec.ofNat 8 t.src.val ::
    BitVec.ofNat 8 (t.kind.code * 16 + t.seq.val) :: BitVec.ofNat 8 t.payload.length :: t.payload

/-- The octets of a telegram as they are sent, the check last and high octet first (R90, R93). -/
def Telegram.octets (t : Telegram) : List Octet := t.body ++ octets16 (check t.body)

/-- The six low bits of a header octet as an address. -/
def addrOf (o : Octet) : Addr := Fin.ofNat 64 o.toNat

/-- What a telegram ended by a fence is, by the first row of R96 that applies: a format outcome, or a
good telegram. -/
def classify (content : List Octet) : Except RxOutcome Telegram :=
  match content with
  | dest :: src :: kind :: len :: rest =>
    if content.length < 6 then .error .short
    else if check (content.take (content.length - 2)) ≠
        BitVec.ofNat 16 (octetsNat (content.drop (content.length - 2))) then .error .badCheck
    else if len.toNat > 250 ∨ len.toNat ≠ content.length - 6 then .error .lengthMismatch
    else if dest.toNat ≥ 64 ∨ src.toNat ≥ 64 ∨ kind.toNat / 4 % 4 ≠ 0 then .error .badHeader
    else match Kind.ofCode (kind.toNat / 16) with
      | none => .error .badHeader
      | some k => .ok ⟨addrOf dest, addrOf src, k, Fin.ofNat 4 kind.toNat,
          rest.take (rest.length - 2)⟩
  | _ => .error .short

/-! ## Line coding -/

/-- The bits of an octet in the order they go on the line, least significant first (R86). -/
def octetBits (o : Octet) : List Bool := [0, 1, 2, 3, 4, 5, 6, 7].map o.getLsbD

/-- Stuffing (R86): `last` is the line bit before, `run` the length of the run it ends. After a run of
six a bit of the opposite value is inserted, and it starts a new run of one. -/
def stuff (last : Bool) (run : Nat) : List Bool → List Bool
  | [] => []
  | b :: bs =>
    let run' := if b = last then run + 1 else 1
    if run' = 6 then b :: (!b) :: stuff (!b) 1 bs else b :: stuff b run' bs

/-- A fence as it is sent: a 0, seven 1s, and the 0 that ends it (R87). -/
def fenceBits : List Bool := false :: List.replicate 7 true ++ [false]

/-- A telegram on the line: the opening fence, the stuffed content, whose run count starts with the 0
that ends the fence, the closing fence, and quiet (R87). -/
def lineBits (octets : List Octet) : List Bool :=
  fenceBits ++ stuff false 1 (octets.flatMap octetBits) ++ fenceBits ++ List.replicate 8 true

/-- What the receiver recognises on the line (R87, R89). -/
inductive LineEvent where
  | fence
  | octet (o : Octet)
  | quiet
  | brk
  deriving DecidableEq, Repr

/-- The bit level of a receiver. `last` and `run` are the run of raw line bits that is going on.
`content` holds the destuffed bits since the last fence that are not yet an octet, oldest first, and
that are certain to be content; `doubt` those that a fence, quiet or break may still take back: the
bits of the run that is going on and, while a run of 1s goes on, the 0 before it, which may begin a
fence (R87, R88). `before` is that 0 when it was content. -/
structure BitRx where
  receiving : Bool := false
  last : Bool := true
  run : Nat := 8
  content : List Bool := []
  before : List Bool := []
  doubt : List Bool := []
  deriving DecidableEq, Repr

/-- The octet of eight content bits, the first its least significant (R89). -/
def octetOfBits (bits : List Bool) : Octet :=
  BitVec.ofNat 8 (bits.foldr (fun b n => (if b then 1 else 0) + 2 * n) 0)

/-- Whole octets of the certain bits, and the bits that remain (R89). -/
def takeOctets : Nat → List Bool → List LineEvent × List Bool
  | 0, bits => ([], bits)
  | fuel + 1, bits =>
    if bits.length < 8 then ([], bits)
    else
      let (events, rest) := takeOctets fuel (bits.drop 8)
      (.octet (octetOfBits (bits.take 8)) :: events, rest)

/-- Bits become certain content, and complete octets are collected. -/
def BitRx.commit (r : BitRx) (bits : List Bool) : BitRx × List LineEvent :=
  if r.receiving then
    let (events, rest) := takeOctets 4 (r.content ++ bits)
    ({ r with content := rest }, events)
  else (r, [])

/-- One line bit into the receiver (R86 to R89). -/
def BitRx.step (r : BitRx) (bit : Bool) : BitRx × List LineEvent :=
  if bit = r.last then
    let run := r.run + 1
    if bit then
      if run = 8 then
        -- the eighth 1: quiet; the bits of its run are not content, the 0 before it is
        let (r', events) := r.commit r.before
        ({ r' with receiving := false, run, content := [], before := [], doubt := [] },
          events ++ [.quiet])
      else ({ r with run, doubt := r.doubt ++ [bit] }, [])
    else
      if run = 7 then
        ({ r with receiving := false, run, content := [], before := [], doubt := [] }, [.brk])
      else ({ r with run, doubt := r.doubt ++ [bit] }, [])
  else if r.last ∧ r.run = 7 then
    -- the 0 after exactly seven 1s: a fence; it is also the stuffed bit, and is removed
    ({ receiving := true, last := false, run := 1, content := [], before := [], doubt := [] },
      [.fence])
  else
    -- a run of six or fewer has ended, or a mark's run; a bit after a run of six or more is stuffed
    let own := if r.run ≥ 6 then [] else [bit]
    if bit then
      -- a run of 0s has ended: all but its last bit are certain, its last may begin a fence
      let (r', events) := r.commit (r.before ++ r.doubt.dropLast)
      ({ r' with last := bit, run := 1, before := r.doubt.drop (r.doubt.length - 1), doubt := own },
        events)
    else
      -- a run of at most six 1s has ended: it and the 0 before it are certain
      let (r', events) := r.commit (r.before ++ r.doubt)
      ({ r' with last := bit, run := 1, before := [], doubt := own }, events)

/-- What the receiver recognises in a list of line bits. -/
def lineEvents (r : BitRx) : List Bool → List LineEvent
  | [] => []
  | b :: bs =>
    let (r', events) := r.step b
    events ++ lineEvents r' bs

/-- The rows of the table that line events are for a port's receiver (R88): `receiving` and `octets`
are its state and how many octets it holds. -/
def rowsOf (p : Port) (receiving : Bool) (octets : Nat) : List LineEvent → List Instr
  | [] => []
  | .fence :: es =>
    (if receiving then Instr.telegramEnd p else .openingFence p) :: rowsOf p true 0 es
  | .octet o :: es =>
    if receiving then
      if octets < Config.maxContent then .contentOctetCollected p o :: rowsOf p true (octets + 1) es
      else .receptionOverlong p :: rowsOf p false 0 es
    else rowsOf p false 0 es
  | .quiet :: es | .brk :: es =>
    (if receiving then
      if octets = 0 then [Instr.receptionEndedWithoutOutcome p] else [.receptionBroken p]
    else []) ++ rowsOf p false 0 es

end Sys2Proof.Machine
end

