-- ==== Sys2Proof/Machine/Flags.lean ====
section
/-! DEFINITION. The attention flags (R184), the statistics counters and the codes under which the PLC
sees modes, qualities and link states (R6, R108, R173). -/

namespace Sys2Proof.Machine

/-- The bit of an attention flag (R184). -/
def Attention.bit : Attention → Nat
  | .nodeLost => 0 | .nodeIdentity => 1 | .cycleOverrun => 2 | .plcSilent => 3
  | .startIncomplete => 4 | .bypassEnded => 5 | .returnOverwritten => 6 | .channelEvent => 7
  | .trainIgnored => 8 | .pointStale => 9 | .lineFault => 10 | .checkRefused => 11

/-- Set an attention flag, whatever the mask holds (R184). -/
def setFlag (f : Attention) (s : State) : State :=
  { s with attention := s.attention ||| (1 <<< f.bit) }

/-- An attention flag is set. -/
def State.flag (s : State) (f : Attention) : Bool := s.attention.getLsbD f.bit

/-- Set a flag if a condition holds. -/
def setFlagIf (c : Bool) (f : Attention) (s : State) : State := if c then setFlag f s else s

/-- The attention summary: some flag is set whose mask bit is enabled (R173). -/
def State.attentionSummary (s : State) : Bool := decide (s.attention &&& s.mask ≠ 0)

def Mode.code : Mode → Octet
  | .config => 0 | .starting => 1 | .run => 2

def Quality.code : Quality → Octet
  | .unset => 0 | .good => 1 | .limited => 2 | .stale => 3 | .substituted => 4 | .forced => 5

def LinkState.code : LinkState → Octet
  | .absent => 0 | .silent => 1 | .online => 2 | .suspect => 3 | .lost => 4 | .rejoining => 5

/-- Interlock terms and trips accept GOOD, LIMITED and FORCED (R52, R67). -/
def Quality.trusted : Quality → Bool
  | .good | .limited | .forced => true
  | .unset | .stale | .substituted => false

/-- Place of a receive counter in the order of R100. -/
def RxOutcome.index : RxOutcome → Fin 9
  | .taken => 0 | .notForUs => 1 | .short => 2 | .overlong => 3 | .badCheck => 4 | .broken => 5
  | .lengthMismatch => 6 | .badHeader => 7 | .unexpected => 8

/-- The outcomes that set LINE_FAULT and are reported to the owner of an awaited reply (R99, R100). -/
def RxOutcome.isFault : RxOutcome → Bool
  | .short | .overlong | .badCheck | .broken | .lengthMismatch | .badHeader => true
  | .taken | .notForUs | .unexpected => false

/-- Place of a node counter in the order of R117. -/
def NodeCounter.index : NodeCounter → Fin 8
  | .pollsSent => 0 | .goodReplies => 1 | .timeout => 2 | .noise => 3 | .format => 4
  | .identity => 5 | .lateReplies => 6 | .skips => 7

end Sys2Proof.Machine
end

