-- ==== Sys2Proof/Machine/Ops.lean ====
section
/-! DEFINITION. Named operations over the state that several blocks share: the clock and its timers,
ports and segments by name, the arbiter's list, points by number. -/

namespace Sys2Proof.Machine

open Sys2Proof

/-! ## Clock and timers -/

/-- The clock reaches an instant; it never runs back (log entry 2). -/
def clockTo (t : Nat) (s : State) : State := { s with now := max s.now t }

/-- A timer started now with a duration in clock units. -/
def startTimer (s : State) (duration : Nat) : Timer := .running (s.now + duration)

/-- The timer runs and its expiry has not been taken. -/
def Timer.due? : Timer → Option Nat
  | .running d => some d
  | .stopped | .expired _ => none

/-- The timer runs, or has expired and counts as running (R9). -/
def Timer.isRunning : Timer → Bool
  | .stopped => false
  | .running _ | .expired _ => true

/-- The time a timer has left. -/
def Timer.left (now : Nat) : Timer → Nat
  | .running d => d - now
  | .stopped | .expired _ => 0

/-! ## Ports, segments, points and nodes -/

/-- The value of one port. -/
def PerPort.get {α : Type} (x : PerPort α) : Port → α
  | .spreader => x.spreader
  | .cab => x.cab
  | .drive => x.drive

/-- Change the value of one port. -/
def PerPort.upd {α : Type} (x : PerPort α) (p : Port) (f : α → α) : PerPort α :=
  match p with
  | .spreader => { x with spreader := f x.spreader }
  | .cab => { x with cab := f x.cab }
  | .drive => { x with drive := f x.drive }

/-- The value of one segment. -/
def PerSeg.get {α : Type} (x : PerSeg α) : Seg → α
  | .spreader => x.spreader
  | .cab => x.cab

/-- Change the value of one segment. -/
def PerSeg.upd {α : Type} (x : PerSeg α) (g : Seg) (f : α → α) : PerSeg α :=
  match g with
  | .spreader => { x with spreader := f x.spreader }
  | .cab => { x with cab := f x.cab }

/-- The port of a segment. -/
def portOf : Seg → Port
  | .spreader => .spreader
  | .cab => .cab

/-- The segment a port polls; the drive port polls none. -/
def segOf : Port → Option Seg
  | .spreader => some .spreader
  | .cab => some .cab
  | .drive => none

def updPort (p : Port) (f : PortRt → PortRt) (s : State) : State :=
  { s with ports := s.ports.upd p f }

def updSeg (g : Seg) (f : SegRt → SegRt) (s : State) : State :=
  { s with segs := s.segs.upd g f }

def updPoint (p : PointNo) (f : PointRt → PointRt) (s : State) : State :=
  { s with points := updOne s.points p f }

def updNode (n : NodeNo) (f : NodeRt → NodeRt) (s : State) : State :=
  { s with nodes := updOne s.nodes n f }

def updOutput (o : OutputNo) (f : OutputRt → OutputRt) (s : State) : State :=
  { s with outputs := updOne s.outputs o f }

def updInput (i : InputNo) (f : InputRt → InputRt) (s : State) : State :=
  { s with inputs := updOne s.inputs i f }

def updChannel (c : ChannelNo) (f : ChannelRt → ChannelRt) (s : State) : State :=
  { s with channels := updOne s.channels c f }

/-- The reply window of a segment in clock units (R119). -/
def replyWindow (s : State) : Seg → Nat
  | .spreader => s.tables.global.spreaderWindow * 10 * Config.microsecond
  | .cab => s.tables.global.cabWindow * 10 * Config.microsecond

/-- The turnaround of a segment in clock units (R119). -/
def turnaroundTime (s : State) : Seg → Nat
  | .spreader => s.tables.global.spreaderTurnaround * Config.microsecond
  | .cab => s.tables.global.cabTurnaround * Config.microsecond

/-- The cycle period in clock units (R119). -/
def cyclePeriodUnits (s : State) : Nat := s.tables.global.cyclePeriod * 100 * Config.microsecond

/-- The forced flag of a point (R5): it stands in the forced list (log entry 12). -/
def State.isForced (s : State) (p : PointNo) : Bool := s.forced.contains p

/-- An entry is in the bypass list (R76). -/
def State.isBypassed (s : State) (e : InterlockNo) : Bool := s.bypasses.any fun b => b.entry == e

/-- The node is ONLINE or SUSPECT, which its STATE points show as 1 (R12). -/
def LinkState.up : LinkState → Bool
  | .online | .suspect => true
  | .absent | .silent | .lost | .rejoining => false

/-! ## Counters -/

def countRx (p : Port) (o : RxOutcome) (s : State) : State :=
  updPort p (fun r => { r with counters := updOne r.counters o.index bump }) s

def countNode (n : NodeNo) (c : NodeCounter) (s : State) : State :=
  updNode n (fun r => { r with counters := updOne r.counters c.index bump }) s

/-! ## The arbiter -/

/-- The class of a request (R18). -/
def requestClass (ts : Tables) : Request → Nat
  | .holdExpiry .. | .driveSilence _ | .termHold .. | .bypassExpiry .. | .startTimer _ => 1
  | .replyIntake n _ _ | .nodeLoss n _ =>
    match ts.nodes[n].segment with
    | .spreader => 2
    | .cab => 3
  | .exchange _ => 4
  | .lineLevel .. | .sample .. => 5
  | .entryToRun | .manage _ => 6

/-- The order of the requests of one class that arrive together: ascending by the point, node, entry,
term, input or channel they concern (R18, R69, R151, R164), and those of different kinds in the order in
which R18 lists the kinds (log entry 9). -/
def requestOrder : Request → Nat
  | .holdExpiry p _ => p.val
  | .driveSilence _ => 384
  | .termHold e k _ => 385 + 5 * e.val + k.val
  | .bypassExpiry e _ => 385 + 5 * e.val + 4
  | .startTimer _ => 625
  | .replyIntake n _ _ => n.val
  | .nodeLoss n _ => n.val
  | .lineLevel i _ _ => i.val
  | .sample c _ _ => 8 + c.val
  | .exchange _ | .entryToRun | .manage _ => 0

/-- `a` stands before `b`, or their order is one, when both arrive together (R18). -/
def requestBefore (ts : Tables) (a b : Request) : Bool :=
  decide (requestClass ts a < requestClass ts b) ||
    (decide (requestClass ts a = requestClass ts b) && decide (requestOrder a ≤ requestOrder b))

/-- One request among those that arrived together with it: behind those that stand before it (R18). -/
def joinTogether (ts : Tables) (r : Request) : List Request → List Request
  | [] => [r]
  | q :: qs => if requestBefore ts q r then q :: joinTogether ts r qs else r :: q :: qs

/-- Requests that one step makes together join the end of the list in the order of their classes
(R18). -/
def requestAll (rs : List Request) (s : State) : State :=
  { s with arbiter := s.arbiter ++ rs.foldl (fun batch r => joinTogether s.tables r batch) [] }

/-- The instant at which a request arrives, where its event has one on the model's clock: an expiry and
an accepted level (log entry 9). -/
def Request.instant? : Request → Option Nat
  | .holdExpiry _ t | .driveSilence t | .termHold _ _ t | .bypassExpiry _ t | .startTimer t
  | .lineLevel _ _ t | .sample _ _ t => some t
  | .nodeLoss _ t => t
  | .replyIntake .. | .exchange _ | .entryToRun | .manage _ => none

/-- `r` stands behind `q` wherever their instants lie: a node's loss behind the intakes of the node that
wait, whose replies ended exchanges before the one whose miss requests the loss (R18, R113; log entry
9). -/
def Request.follows : Request → Request → Bool
  | .nodeLoss n _, .replyIntake m _ _ => decide (m = n)
  | _, _ => false

/-- A request of instant `t` joins the list: in its place among the first that arrived at that instant and
what stands behind it, but behind every request that it follows, or else at the end. -/
def joinAt (ts : Tables) (r : Request) (t : Nat) : List Request → List Request
  | [] => [r]
  | q :: qs =>
    if q.instant? = some t ∧ !qs.any r.follows then joinTogether ts r (q :: qs)
    else q :: joinAt ts r t qs

/-- The list with one request more: at its end, or, when its instant is one at which requests have
arrived that still wait, in its place among them (R18). -/
def joined (ts : Tables) (r : Request) (list : List Request) : List Request :=
  match r.instant? with
  | none => list ++ [r]
  | some t => joinAt ts r t list

/-- One request joins the arbiter's list (R18). -/
def request (r : Request) (s : State) : State :=
  { s with arbiter := joined s.tables r s.arbiter }

/-- The grant of the request at the head of the list, if it is one of those `act` carries out; the
event does not occur otherwise, and the state stands (log entry 9). -/
def grant (act : Request → Option (State → State)) (s : State) : State :=
  match s.arbiter with
  | [] => s
  | r :: rest =>
    match act r with
    | none => s
    | some f => f { s with arbiter := rest }

/-! ## Commands reach a part that has its supply and is not held in reset -/

/-- Without supply, and while the reset line is held active, the part takes nothing (R183, R84). -/
def State.alive (s : State) : Bool := s.powered && !s.resetHeld

/-- A command's effect on a part that takes commands. -/
def whenAlive (s : State) (f : State → State) : Host.Outcome State Fault Refusal :=
  .next (if s.alive then f s else s)

end Sys2Proof.Machine
end

