-- ==== Sys2Proof/Machine/LocalLines.lean ====
section
/-! DEFINITION. The Local Line Unit: debounce, output modes, trains, DUTY and the lamp pattern counter
(R149 to R159). -/

namespace Sys2Proof.Machine

/-! ## Debounce (R150, R163) -/

/-- What a change of a line's level does to its debouncer; `true` when the new level is accepted at
once. A level that is not a change does nothing. -/
def lineChange (now debounce : Nat) (level : Bool) (d : Debounced) : Debounced × Bool :=
  if level = d.line then (d, false)
  else if level = d.accepted then ({ d with line := level, timer := .stopped }, false)
  else if debounce = 0 then ({ line := level, accepted := level, timer := .stopped }, true)
  else ({ d with line := level, timer := .running (now + debounce) }, false)

/-- What the expiry of a running debounce timer does: the line level is accepted. -/
def debounceExpiry (d : Debounced) : Debounced × Bool :=
  match d.timer with
  | .running _ =>
    ({ d with accepted := d.line, timer := .stopped }, decide (d.line ≠ d.accepted))
  | .stopped | .expired _ => (d, false)

/-- Take the line level without debounce (R149, R162). -/
def Debounced.settled (d : Debounced) : Debounced :=
  { line := d.line, accepted := d.line, timer := .stopped }

/-! ## Trains (R157 to R159) -/

/-- 10 ms, the unit of train phases and the DUTY period, in clock units. -/
def tenMs : Nat := 10 * Config.millisecond

/-- The remaining count a value starts with; 255 is ENDLESS (R157). -/
def remainingOf (v : Word32) : Remaining := if v = 255 then .endless else .count v.toNat

/-- The local input an output's enable input names (R152). -/
def OutputCfg.enableNo (c : OutputCfg) : Option InputNo :=
  if h : c.enableInput.toNat < 8 then some ⟨c.enableInput.toNat, h⟩ else none

/-- The enable input stands at its disabling level (R159). -/
def disabled (s : State) (c : OutputCfg) : Bool :=
  match c.enableNo with
  | none => false
  | some i => s.inputs[i].pin.accepted == c.disablingLevel

/-- The length of a phase in clock units (R157). -/
def phaseTime (c : OutputCfg) (high : Bool) : Nat :=
  (if high then c.highTime else c.lowTime).toNat * tenMs

/-- A train that begins: RUNNING in its high phase, or PAUSED with the whole high time kept and the
output still inactive (R157). -/
def beginTrain (s : State) (c : OutputCfg) (v : Word32) (rt : OutputRt) : OutputRt :=
  if disabled s c then { rt with train := .paused true (phaseTime c true) (remainingOf v) }
  else
    { rt with
      active := true, train := .running true (startTimer s (phaseTime c true)) (remainingOf v) }

/-- The accepted level of its enable input reaches a train (R159). -/
def levelToTrain (now : Nat) (c : OutputCfg) (level : Bool) (rt : OutputRt) : OutputRt :=
  match rt.train with
  | .idle => rt
  | .running high timer remaining =>
    if level = c.disablingLevel then { rt with train := .paused high (timer.left now) remaining }
    else rt
  | .paused high left remaining =>
    if level = c.disablingLevel then rt
    else { rt with active := high, train := .running high (.running (now + left)) remaining }

/-- The expiry of a train's phase timer (R157). -/
def phaseExpiry (now : Nat) (c : OutputCfg) (rt : OutputRt) : OutputRt :=
  match rt.train with
  | .running true (.running _) remaining =>
    { rt with active := false, train := .running false (.running (now + phaseTime c false)) remaining }
  | .running false (.running _) .endless =>
    { rt with active := true, train := .running true (.running (now + phaseTime c true)) .endless }
  | .running false (.running _) (.count n) =>
    if n ≤ 1 then { rt with active := false, train := .idle }
    else
      { rt with
        active := true, train := .running true (.running (now + phaseTime c true)) (.count (n - 1)) }
  | _ => rt

/-! ## Lamp pattern counter and PATTERN outputs (R154, R155) -/

/-- The bit of the current lamp step is set in the step mask. -/
def lampBit (s : State) (c : OutputCfg) : Bool := c.stepMask.getLsbD s.lampIndex

/-- The drive of a PATTERN output with its last value (R154). -/
def patternDrive (s : State) (c : OutputCfg) (last : Word32) : Bool :=
  decide (last ≠ 0) && lampBit s c

/-- The lamp step time in clock units (R155). -/
def lampStepTime (s : State) : Nat := s.tables.global.lampStep * tenMs

/-! ## DUTY (R156) -/

/-- A period start: the value of this period is the last value. -/
def periodBegin (now : Nat) (rt : OutputRt) : OutputRt :=
  if rt.last = 0 then { rt with active := false, onTimer := .stopped }
  else { rt with active := true, onTimer := .running (now + rt.last.toNat * Config.dutyUnit) }

/-! ## Hand-over (R153, R154, R156 to R158) -/

/-- What a hand-over does to an output in STARTING and RUN, by its mode; the last value then becomes the
handed value. `true` when a train ignores the value (R158). -/
def handed (s : State) (c : OutputCfg) (v : Word32) (rt : OutputRt) : OutputRt × Bool :=
  match c.mode with
  | .steady => ({ rt with active := decide (v ≠ 0), last := v }, false)
  | .pattern => ({ rt with active := patternDrive s c v, last := v }, false)
  | .duty =>
    (if v = 0 then { rt with active := false, onTimer := .stopped, last := v }
      else { rt with last := v }, false)
  | .train =>
    match rt.train with
    | .idle =>
      (if v ≠ 0 ∧ v ≠ rt.last then { beginTrain s c v rt with last := v } else { rt with last := v },
        false)
    | .running .. | .paused .. =>
      if v = 0 then ({ rt with train := .idle, active := false, last := v }, false)
      else if v = rt.last then (rt, false)
      else ({ rt with ignored := bump rt.ignored, last := v }, true)

/-- An output is handed the value of its OUT point. The output follows its value by its mode in
STARTING and RUN only (R153). -/
def handOver (o : OutputNo) (v : Word32) (s : State) : State :=
  if s.mode = .config then s
  else
    let (rt, ignored) := handed s s.tables.outputs[o] v s.outputs[o]
    setFlagIf ignored .trainIgnored (updOutput o (fun _ => rt) s)

/-- An output outside its mode: inactive, last value 0, train IDLE, timers stopped; the ignored
changes counter stands (R153, R158). -/
def OutputRt.quieted (rt : OutputRt) : OutputRt :=
  { active := false, last := 0, train := .idle, period := .stopped, onTimer := .stopped,
    ignored := rt.ignored }

/-- Every output outside its mode (R153). -/
def quietOutputs (s : State) : State := { s with outputs := s.outputs.map OutputRt.quieted }

/-- The line of an output is on (R153). -/
def State.outputOn (s : State) (o : OutputNo) : Bool :=
  s.outputs[o].active != s.tables.outputs[o].inverted

/-! ## Accepted levels (R151) -/

/-- The accepted level of an input is handed to the train of every output it enables, at once. -/
def levelToTrains (i : InputNo) (level : Bool) (s : State) : State :=
  { s with
    outputs := updAll (fun o rt =>
      let c := s.tables.outputs[o]
      if c.mode = .train ∧ c.enableNo = some i then levelToTrain s.now c level rt else rt)
      s.outputs }

/-- An input has accepted its line level: its counter, its trains, and in STARTING and RUN a request
carrying the level (R151). -/
def levelAccepted (i : InputNo) (s : State) : State :=
  let s := updInput i (fun rt => { rt with changes := bump rt.changes }) s
  let level := s.inputs[i].pin.accepted
  let s := levelToTrains i level s
  if s.mode = .config then s else request (.lineLevel i level s.now) s

end Sys2Proof.Machine
end

