-- ==== Sys2Proof/Machine/Capture.lean ====
section
/-! DEFINITION. The Capture Channels: arming, edges by mode, index and measurement (R161 to R169). -/

namespace Sys2Proof.Machine

/-- The ceiling of a COUNT channel (R165) and the bound of a QUAD position (R168). -/
def countCeiling : Int := 2147483647

/-- The measurement of a channel (R162). -/
def measurement (c : ChannelCfg) (r : ChannelRt) : Word32 :=
  match c.mode with
  | .off => 0
  | .count => BitVec.ofInt 32 r.count
  | .period | .width => BitVec.ofNat 32 r.timed
  | .quad => BitVec.ofInt 32 r.position

/-- Arming a channel; its sample timer and its error count stand (R162). -/
def arm (c : ChannelCfg) (r : ChannelRt) : ChannelRt :=
  { a := r.a.settled, b := r.b.settled, z := r.z.settled, position := c.preset,
    lastPair := (r.a.line, r.b.line), sample := r.sample, errors := r.errors }

/-- The sample interval in clock units (R161). -/
def sampleInterval (c : ChannelCfg) : Nat := c.interval * Config.millisecond

/-- The timeout in clock units (R161). -/
def channelTimeout (c : ChannelCfg) : Nat := c.timeout * Config.millisecond

/-! ## Edges. Each gives the channel after the edge and whether CHANNEL_EVENT is set. -/

/-- The count comes to a value: `reached` follows it (R165, R169). A load above a limit that is not 0
leaves `reached` as it is: DESIGN CHOICE (log entry 27, unsafe). -/
def countTo (c : ChannelCfg) (v : Int) (r : ChannelRt) : ChannelRt × Bool :=
  let r := { r with count := v }
  if c.limit = 0 then (r, false)
  else if v = c.limit ∧ !r.reached then ({ r with reached := true }, true)
  else if v < c.limit then ({ r with reached := false }, false)
  else (r, false)

/-- A rising edge of A in COUNT mode (R165). A count above a limit that is not 0, which only an index load
of a preset that START would refuse leaves, stands, and `reached` with it: DESIGN CHOICE (log entry 27,
unsafe), since R165 speaks of a count at its ceiling. -/
def countEdge (c : ChannelCfg) (r : ChannelRt) : ChannelRt × Bool :=
  let ceiling : Int := if c.limit = 0 then countCeiling else c.limit
  if ceiling ≤ r.count then (r, false) else countTo c (r.count + 1) r

/-- Whole microseconds since an instant (R166, R167). -/
def microsSince (now since : Nat) : Nat := (now - since) / Config.microsecond

/-- A rising edge of A in PERIOD mode (R166). -/
def periodEdge (now : Nat) (c : ChannelCfg) (r : ChannelRt) : ChannelRt :=
  let timeout := Timer.running (now + channelTimeout c)
  match r.stage with
  | .waiting => { r with stage := .timing now, timeout }
  | .timing since =>
    { r with timed := max 1 (min 2000000 (microsSince now since)), stage := .timing now, timeout }

/-- An edge of A in WIDTH mode (R167). -/
def widthEdge (now : Nat) (c : ChannelCfg) (rising : Bool) (r : ChannelRt) : ChannelRt :=
  let timeout := Timer.running (now + channelTimeout c)
  if rising then { r with stage := .timing now, timeout }
  else match r.stage with
    | .timing since =>
      { r with timed := min 2000000 (microsSince now since), stage := .waiting, timeout }
    | .waiting => { r with timeout }

/-- What the decoder makes of a pair read after the last pair (R168). -/
inductive QuadStep where
  | forward | backward | illegal | none
  deriving DecidableEq, Repr

/-- The table of R168: going forward, A leads B. -/
def quadStep (last pair : Bool × Bool) : QuadStep :=
  if pair = last then .none
  else if pair.1 ≠ last.1 ∧ pair.2 ≠ last.2 then .illegal
  else if pair.1 ≠ last.1 then (if last.1 = last.2 then .forward else .backward)
  else if last.1 = last.2 then .backward else .forward

/-- An edge of A or B in QUAD mode: the accepted levels are read as a pair (R168). -/
def quadEdge (r : ChannelRt) : ChannelRt × Bool :=
  let pair := (r.a.accepted, r.b.accepted)
  let r' := { r with lastPair := pair }
  match quadStep r.lastPair pair with
  | .none => (r', false)
  | .forward => ({ r' with position := min countCeiling (r.position + 1) }, false)
  | .backward => ({ r' with position := max (-countCeiling) (r.position - 1) }, false)
  | .illegal => ({ r' with errors := bump r.errors }, true)

/-- A rising edge of Z (R169): channel 0, in COUNT and QUAD modes. -/
def indexEdge (c : ChannelCfg) (r : ChannelRt) : ChannelRt × Bool :=
  let loads := match c.index with
    | .nothing => false
    | .presetOnce => !r.homed
    | .presetEvery => true
  if loads then
    match c.mode with
    | .quad => ({ r with position := c.preset, homed := true }, false)
    | .count => countTo c c.preset { r with homed := true }
    | .off | .period | .width => (r, false)
  else (r, false)

/-- The mode acts on an accepted edge (R163). -/
def channelEdge (now : Nat) (c : ChannelCfg) (isZero : Bool) (input : CapInput) (rising : Bool)
    (r : ChannelRt) : ChannelRt × Bool :=
  match input, c.mode with
  | .a, .count => if rising then countEdge c r else (r, false)
  | .a, .period => (if rising then periodEdge now c r else r, false)
  | .a, .width => (widthEdge now c rising r, false)
  | .a, .quad | .b, .quad => quadEdge r
  | .z, .count | .z, .quad => if isZero ∧ rising then indexEdge c r else (r, false)
  | .a, .off | .b, .off | .b, .count | .b, .period | .b, .width | .z, .off | .z, .period
  | .z, .width => (r, false)

/-! ## Inputs -/

def ChannelRt.input (r : ChannelRt) : CapInput → Debounced
  | .a => r.a
  | .b => r.b
  | .z => r.z

def ChannelRt.setInput (r : ChannelRt) (i : CapInput) (d : Debounced) : ChannelRt :=
  match i with
  | .a => { r with a := d }
  | .b => { r with b := d }
  | .z => { r with z := d }

/-- The edge of one input acts on its channel (R163). -/
def actEdge (k : ChannelNo) (s : State) (i : CapInput) : State :=
  let r := s.channels[k]
  let (r', event) :=
    channelEdge s.now s.tables.channels[k] (decide (k = 0)) i (r.input i).accepted r
  setFlagIf event .channelEvent (updChannel k (fun _ => r') s)

/-- Edges of a channel act in the order given (R163, R168, R169). -/
def actEdges (k : ChannelNo) (edges : List CapInput) (s : State) : State :=
  edges.foldl (actEdge k) s

/-- Only channel 0 has an input Z (R163). -/
def hasInput (k : ChannelNo) (i : CapInput) : Bool := decide (i ≠ .z) || decide (k = 0)

/-- One input goes through a change of its debouncer; it joins the edges if that accepts a level. -/
def changeInput (acc : ChannelRt × List CapInput)
    (e : CapInput × (Debounced → Debounced × Bool)) : ChannelRt × List CapInput :=
  let (d, accepted) := e.2 (acc.1.input e.1)
  (acc.1.setInput e.1 d, if accepted then acc.2 ++ [e.1] else acc.2)

/-- Inputs of a channel go through a change of their debouncers, and those that accept a level
are edges, acted on once all the levels stand (R163; two inputs of one command are read as one pair,
R168, log entry 5). -/
def inputsChange (k : ChannelNo) (inputs : List (CapInput × (Debounced → Debounced × Bool)))
    (s : State) : State :=
  let (r, edges) := (inputs.filter fun e => hasInput k e.1).foldl changeInput (s.channels[k], [])
  actEdges k edges (updChannel k (fun _ => r) s)

/-- An accepted level with no debounce and no edge: the input follows its pin while the part is held
in reset or has no supply (R162, R183; log entry 3). -/
def followPin (level : Bool) : Debounced := { line := level, accepted := level }

end Sys2Proof.Machine
end

