-- ==== Sys2Proof/Machine/Operands.lean ====
section
/-! DEFINITION. Limits and readings of point values (R4), the Intake Converter with every raw value and
form (R28 to R42), and the stale policy (R7). -/

namespace Sys2Proof.Machine

/-! ## Limits and readings -/

/-- The limits of a point by its form; a CNT point has none (R4). -/
def PointCfg.limits (c : PointCfg) : Option (Int × Int) :=
  match c.form with
  | .bin => some (0, 1)
  | .word | .ana => some (c.low.toInt, c.high.toInt)
  | .cnt => none

/-- A value as a whole number: unsigned for a CNT point, signed for every other (R5, R45, R67). -/
def PointCfg.reading (c : PointCfg) (v : Word32) : Int :=
  match c.form with
  | .cnt => v.toNat
  | .bin | .word | .ana => v.toInt

/-- Clamp an exact value into a point's limits, and say whether it had to be bent (R33, R36, R49). A
CNT point takes the 32-bit pattern. -/
def PointCfg.clamp (c : PointCfg) (v : Int) : Word32 × Bool :=
  match c.limits with
  | none => (BitVec.ofInt 32 v, false)
  | some (lo, hi) =>
    if v < lo then (BitVec.ofInt 32 lo, true)
    else if hi < v then (BitVec.ofInt 32 hi, true)
    else (BitVec.ofInt 32 v, false)

/-- A point's value as a whole number. -/
def State.reading (s : State) (p : PointNo) : Int :=
  s.tables.points[p].reading s.points[p].value

/-! ## Raw values -/

/-- A raw value as a bit: a word gives 0 or 1 by its nonzero test (R30, R32). -/
def Raw.asBit : Raw → Bool
  | .bit b => b
  | .word w => decide (w ≠ 0)
  | .measure m | .advance m => decide (m ≠ 0)

/-- A raw value read as unsigned (R29, R30, R33). -/
def Raw.asUnsigned : Raw → Int
  | .bit b => if b then 1 else 0
  | .word w => w.toNat
  | .measure m | .advance m => m.toNat

/-- A raw value read as signed (R29, R30, R31). -/
def Raw.asSigned : Raw → Int
  | .bit b => if b then 1 else 0
  | .word w => w.toInt
  | .measure m | .advance m => m.toInt

/-- A raw value as a counter word (R29). -/
def Raw.asWord : Raw → Word16
  | .bit b => if b then 1 else 0
  | .word w => w
  | .measure m | .advance m => m.setWidth 16

/-- The raw value a slot selector picks from the payload of a REPLY of a node (R29): after the type
code octet come the input bits and then the input words. -/
def replySlot (n : NodeCfg) (payload : List Octet) (selector : Nat) : Raw :=
  if selector < 256 then
    .bit ((payload.getD (1 + selector / 8) 0).getLsbD (selector % 8))
  else
    let at_ := 1 + (n.inputBits + 7) / 8 + 2 * (selector - 256)
    .word (word16 (payload.getD at_ 0) (payload.getD (at_ + 1) 0))

/-! ## Conversion -/

/-- |p| + 128 divided by 256 with the fraction dropped, with the sign of p (R35). -/
def divide256 (p : Int) : Int := p.sign * ((p.natAbs + 128) / 256 : Nat)

/-- The first three stages of the ANA conversion, exact (R34). -/
def anaScaled (c : PointCfg) (raw : Int) : Int :=
  divide256 ((raw - c.zero.toInt) * c.gain.toInt)

/-- A conversion's quality: LIMITED where the value had to be bent (R33, R36). -/
def clampedQuality (clamped : Bool) : Quality := if clamped then .limited else .good

/-- The conversion of a raw value by the point's form (R32 to R36). A CNT point's intake extends a
count instead (R37 to R39). -/
def convert (c : PointCfg) (r : Raw) : Word32 × Quality :=
  match c.form with
  | .bin => (wordOfBool (r.asBit != c.invert), .good)
  | .word =>
    let (v, bent) := c.clamp r.asUnsigned
    (v, clampedQuality bent)
  | .ana =>
    let (v, bent) := c.clamp (anaScaled c r.asSigned)
    (v, clampedQuality bent)
  | .cnt => (r.asWord.setWidth 32, .good)

/-- How far a counter word has moved since the last one, modulo 65536 (R38). -/
def advanceOf (raw last : Word16) : Word32 := (raw - last).setWidth 32

/-- An intake to a point that is not forced (R32 to R38). A STATE point shows its node's state and is
not inverted (R12, R42). -/
def intakeShown (c : PointCfg) (r : Raw) (rt : PointRt) : PointRt :=
  if c.source = .state then { rt with value := wordOfBool r.asBit, quality := .good }
  else if c.form = .cnt then
    if rt.seed then
      { rt with
        value := rt.value + advanceOf r.asWord rt.lastRaw, lastRaw := r.asWord, quality := .good }
    else
      { rt with
        value := r.asWord.setWidth 32, lastRaw := r.asWord, seed := true, quality := .good }
  else
    let (v, q) := convert c r
    { rt with value := v, quality := q }

/-- The accumulated advance of a withheld intake; absent counts as 0 (R39). -/
def Withheld.advanced : Withheld → Word32
  | .fresh (.advance n) | .aged (.advance n) => n
  | _ => 0

/-- An intake to a forced point (R22, R39). -/
def intakeWithheld (c : PointCfg) (r : Raw) (rt : PointRt) : PointRt :=
  if c.form = .cnt then
    let more := if rt.seed then advanceOf r.asWord rt.lastRaw else 0
    { rt with
      withheld := .fresh (.advance (rt.withheld.advanced + more)), lastRaw := r.asWord, seed := true }
  else { rt with withheld := .fresh r }

/-- An intake (R8, R13, R15, R22). -/
def intake (c : PointCfg) (forced : Bool) (r : Raw) (rt : PointRt) : PointRt :=
  if forced then intakeWithheld c r rt else intakeShown c r rt

/-! ## Stale policy -/

/-- A withheld intake that is present is marked AGED (R7). -/
def Withheld.toAged : Withheld → Withheld
  | .absent => .absent
  | .fresh r | .aged r => .aged r

/-- Applying the stale policy to a point (R7). -/
def applyStale (c : PointCfg) (rt : PointRt) : PointRt :=
  match rt.quality with
  | .forced => { rt with withheld := rt.withheld.toAged }
  | .substituted => rt
  | .unset | .stale =>
    match c.policy with
    | .hold => rt
    | .safe => { rt with value := c.safeValue, quality := .substituted }
  | .good | .limited =>
    match c.policy with
    | .hold => { rt with quality := .stale }
    | .safe => { rt with value := c.safeValue, quality := .substituted }

/-- Value 0 clamped into the point's limits, 0 for CNT (R23, R25). -/
def PointCfg.zeroClamped (c : PointCfg) : Word32 := (c.clamp 0).1

/-- What a released point that is not DERIVED takes from its withheld intake (R23, R39, R42). The
forced flag is cleared by the caller. -/
def releaseIntake (c : PointCfg) (rt : PointRt) : PointRt :=
  let shown (r : Raw) : PointRt :=
    if c.form = .cnt then
      { rt with value := rt.forcedValue + rt.withheld.advanced, quality := .good }
    else intakeShown c r rt
  match rt.withheld with
  | .fresh r => { shown r with withheld := .absent }
  | .aged r => { applyStale c { shown r with withheld := .absent } with withheld := .absent }
  | .absent =>
    { rt with value := c.zeroClamped, quality := .unset, hold := .stopped, seed := false }

end Sys2Proof.Machine
end

