-- ==== Sys2Proof/Machine/Derived.lean ====
section
/-! DEFINITION. The Derived Point Unit: SUM, RATIO and TRIP entries and the derived step of an update
(R43 to R58). -/

namespace Sys2Proof.Machine

/-- The used members of an entry, members 1 to the member count (R43). -/
def DerivedCfg.used (d : DerivedCfg) : List Member := d.members.toList.take d.count.val

/-- The result quality of a SUM or RATIO from its members' qualities, by the first row of R48 that
applies; `bent` when the value was clamped or met a zero denominator. UNSET is handled before. -/
def resultQuality (members : List Quality) (bent : Bool) : Quality :=
  if members.contains .substituted then .substituted
  else if members.contains .stale then .stale
  else if members.contains .limited || bent then .limited
  else .good

/-- The exact weighted sum of the used members (R49). -/
def weightedSum (s : State) (d : DerivedCfg) : Int :=
  d.used.foldl (fun acc m => acc + s.reading m.point * m.weight) 0

/-- The numerator in per mille of the denominator, rounded to nearest, halves away from zero (R50). -/
def perMille (n d : Int) : Int :=
  let magnitude : Nat := (2 * (1000 * n.natAbs) + d.natAbs) / (2 * d.natAbs)
  if (n < 0) = (d < 0) then magnitude else -(magnitude : Int)

/-- The value a RATIO gives its result point, and whether it was clamped or met a zero denominator
(R50, R51). -/
def ratioValue (c : PointCfg) (n d : Int) : Word32 × Bool :=
  if d = 0 then
    let limits := c.limits.getD (0, 0)
    (if n > 0 then BitVec.ofInt 32 limits.2
      else if n < 0 then BitVec.ofInt 32 limits.1
      else c.zeroClamped, true)
  else c.clamp (perMille n d)

/-- The trip state after a trusted input value, by the table of R52. -/
def tripState (d : DerivedCfg) (input : Int) (prior : Bool) : Bool :=
  if d.falling then
    if input ≤ d.setLevel.toInt then true
    else if input ≥ d.resetLevel.toInt then false
    else prior
  else
    if input ≥ d.setLevel.toInt then true
    else if input ≤ d.resetLevel.toInt then false
    else prior

/-- What computing an entry gives: the result point's value and quality (`none` where the entry is
unused), and the trip state. An UNSET member leaves the value as it is (R47 to R53). -/
def computeDerived (s : State) (e : DerivedNo) : Option (Word32 × Quality) × Bool :=
  let d := s.tables.derived[e]
  let prior := s.trips[e]
  let c := s.tables.points[d.result]
  let qualities := d.used.map fun m => s.points[m.point].quality
  match d.kind with
  | .unused => (none, prior)
  | .sum =>
    if qualities.contains .unset then (some (s.points[d.result].value, .unset), prior)
    else
      let (v, bent) := c.clamp (weightedSum s d)
      (some (v, resultQuality qualities bent), prior)
  | .ratio =>
    if qualities.contains .unset then (some (s.points[d.result].value, .unset), prior)
    else
      let (v, bent) := ratioValue c (s.reading d.members[0].point) (s.reading d.members[1].point)
      (some (v, resultQuality qualities bent), prior)
  | .trip =>
    let input := d.members[0].point
    if s.points[input].quality.trusted then
      let state := tripState d (s.reading input) prior
      (some (wordOfBool state, .good), state)
    else (some (wordOfBool d.failValue, .substituted), d.failValue)

/-- Compute an entry: its trip state is set, and its result point is written unless it is forced (R47,
R55). -/
def runDerived (e : DerivedNo) (s : State) : State :=
  let result := s.tables.derived[e].result
  let (written, state) := computeDerived s e
  let s := { s with trips := s.trips.set e state }
  match written with
  | none => s
  | some (v, q) =>
    if s.isForced result then s
    else updPoint result (fun rt => { rt with value := v, quality := q }) s

/-- The value or the quality of a point differs from what it was before the grant (R17). -/
def State.differs (before s : State) (p : PointNo) : Bool :=
  s.points[p].value != before.points[p].value || s.points[p].quality != before.points[p].quality

/-- A point is changed in this update; START counts every point as changed (R17, R25). -/
def changed (before s : State) (every : Bool) (p : PointNo) : Bool := every || before.differs s p

/-- Step 2 of an update: in ascending order, each used entry with a changed used member is computed
(R17, R47). -/
def derivedStep (before : State) (every : Bool) (s : State) : State :=
  (List.finRange 32).foldl (fun s e =>
    let d := s.tables.derived[e]
    if d.kind ≠ .unused ∧ (d.used.any fun m => changed before s every m.point) then runDerived e s
    else s) s

/-- RELEASE of a forced DERIVED point computes its entry once; an UNSET member leaves 0 clamped into
the limits (R56). The point has already left the forced list. -/
def releaseDerived (p : PointNo) (s : State) : State :=
  let c := s.tables.points[p]
  let s := runDerived c.refA s
  if s.points[p].quality = .unset then updPoint p (fun rt => { rt with value := c.zeroClamped }) s
  else s

end Sys2Proof.Machine
end

