-- ==== Sys2Proof/Machine/Interlock.lean ====
section
/-! DEFINITION. The Interlock Unit's terms, permits and bypasses, and the interlock step of an update
(R65 to R72, R76 to R80). -/

namespace Sys2Proof.Machine

/-- A term is satisfied when its point is trusted and its test holds on the point's value (R67). -/
def termSatisfied (s : State) (t : TermCfg) : Bool :=
  let v := s.reading t.point
  s.points[t.point].quality.trusted &&
    match t.test with
    | .isOne => decide (v ≠ 0)
    | .isZero => decide (v = 0)
    | .atLeast => decide (v ≥ t.level.toInt)
    | .atMost => decide (v ≤ t.level.toInt)

/-- The move of a tested term, by the table of R68. -/
def moveTerm (now : Nat) (t : TermCfg) (satisfied : Bool) (rt : TermRt) : TermRt :=
  if satisfied then
    match rt.state with
    | .unsatisfied =>
      if t.hold = 0 then ⟨.held, .stopped⟩
      else ⟨.timing, .running (now + t.hold * 10 * Config.millisecond)⟩
    | .timing | .held => rt
  else ⟨.unsatisfied, .stopped⟩

/-- Term `k` is used (R65). -/
def InterlockCfg.uses (c : InterlockCfg) (k : TermNo) : Bool := decide (k.val < c.count.val)

/-- Test every used term of an entry and move it (R71). -/
def moveTerms (s : State) (c : InterlockCfg) (rt : InterlockRt) : InterlockRt :=
  { rt with
    terms := updAll (fun k t =>
      if c.uses k then moveTerm s.now c.terms[k] (termSatisfied s c.terms[k]) t else t) rt.terms }

/-- The permit: every used term is HELD (R70). -/
def permitOf (c : InterlockCfg) (rt : InterlockRt) : Bool :=
  (List.finRange 4).all fun k => !c.uses k || decide (rt.terms[k].state = .held)

/-- Recompute permit and effective permit (R70). -/
def recompute (s : State) (e : InterlockNo) (c : InterlockCfg) (rt : InterlockRt) : InterlockRt :=
  let permit := permitOf c rt
  { rt with permit, effective := permit || s.isBypassed e }

/-- Some used term of the entry is on a changed point (R71). -/
def hasChangedTerm (before s : State) (every : Bool) (c : InterlockCfg) : Bool :=
  (List.finRange 4).any fun k => c.uses k && changed before s every c.terms[k].point

/-- Step 3 of an update: each used entry with a used term on a changed point is evaluated, and the
permits of the entries in `also` are recomputed (R17, R70, R71). -/
def interlockStep (before : State) (every : Bool) (also : List InterlockNo) (s : State) : State :=
  { s with
    interlocks := updAll (fun e rt =>
      let c := s.tables.interlocks[e]
      if c.mode = .unused then rt
      else if hasChangedTerm before s every c then recompute s e c (moveTerms s c rt)
      else if also.contains e then recompute s e c rt
      else rt) s.interlocks }

/-- Terms UNSATISFIED, their timers cancelled, permits false, the bypass list empty (R72, R80). -/
def clearInterlocks (s : State) : State :=
  { s with interlocks := Vector.replicate 48 {}, bypasses := [] }

/-- The bypass of an entry ends: its record is removed and those behind it close up (R78). -/
def endBypass (e : InterlockNo) (s : State) : State :=
  { s with bypasses := s.bypasses.filter fun b => b.entry != e }

/-- A bypass begins at the end of the list, or its timer is restarted in its place (R77). -/
def beginBypass (e : InterlockNo) (seconds : Nat) (s : State) : State :=
  let timer := startTimer s (seconds * Config.second)
  if s.isBypassed e then
    { s with bypasses := s.bypasses.map fun b => if b.entry = e then { b with timer } else b }
  else { s with bypasses := s.bypasses ++ [⟨e, timer⟩] }

end Sys2Proof.Machine
end

