-- ==== Sys2Proof/Machine/Image.lean ====
section
/-! DEFINITION. OUT points and the four steps of a granted update (R17, R59 to R64, R73 to R75). -/

namespace Sys2Proof.Machine

/-- A feed is active when its quality is not UNSET and its value is not 0 (R74). -/
def State.feedActive (s : State) (p : PointNo) : Bool :=
  decide (s.points[p].quality ≠ .unset) && decide (s.points[p].value ≠ 0)

/-- The guard lets the point pass: it is unguarded, or its guard's effective permit is true and its
rearm latch is clear (R60). A LEVEL entry's points have no latch to read (R73). -/
def guardAllows (s : State) (c : PointCfg) (latch : Bool) : Bool :=
  match c.guard with
  | none => true
  | some e =>
    s.interlocks[e].effective &&
      (decide (s.tables.interlocks[e].mode = .level) || !latch)

/-- The quality of a passing OUT point from its feed's and the clamping (R61). -/
def passedQuality (feed : Quality) (clamped : Bool) : Quality :=
  match feed with
  | .good | .forced => if clamped then .limited else .good
  | q => q

/-- The OUT value rule (R60, R61): value and quality of the OUT point with configuration `c`. -/
def outValue (s : State) (c : PointCfg) (latch : Bool) : Word32 × Quality :=
  let feed := s.points[c.refB]
  if s.mode = .run ∧ feed.quality ≠ .unset ∧ guardAllows s c latch then
    let (v, clamped) := c.clamp (s.reading c.refB)
    (v, passedQuality feed.quality clamped)
  else (c.blocked, .substituted)

/-- The guard's effective permit differs from what it was before the grant (R70). -/
def guardChanged (before s : State) (c : PointCfg) : Bool :=
  match c.guard with
  | none => false
  | some e => s.interlocks[e].effective != before.interlocks[e].effective

/-- The rearm latch of an OUT point at the start of step 4: the rules of R74 in an update granted in
RUN, and of R75 in the update that enters RUN; otherwise it stands. -/
def latchAfter (before s : State) (every : Bool) (c : PointCfg) (latch : Bool) : Bool :=
  match c.guard with
  | none => latch
  | some e =>
    if s.mode = .run ∧ s.tables.interlocks[e].mode = .rearm then
      let after := s.feedActive c.refB
      if before.mode = .run then
        if changed before s every c.refB || guardChanged before s c then
          let was := before.feedActive c.refB
          let permitBefore := before.interlocks[e].effective
          let permitAfter := s.interlocks[e].effective
          if !after then false
          else if !was then (if permitAfter then latch else true)
          else if permitBefore && !permitAfter then true
          else latch
        else latch
      else if after then true else latch
    else latch

/-- Step 4 evaluates an OUT point (R62). -/
def outEvaluated (before s : State) (every outAll : Bool) (c : PointCfg) (latchChanged : Bool) :
    Bool :=
  outAll || changed before s every c.refB || guardChanged before s c || latchChanged

/-- An OUT point's record after step 4 (R62, R74). -/
def outAfter (before s : State) (every outAll : Bool) (c : PointCfg) (rt : PointRt) : PointRt :=
  if c.source = .feed then
    let latch := latchAfter before s every c rt.latch
    if outEvaluated before s every outAll c (latch != rt.latch) then
      let (v, q) := outValue s c latch
      { rt with latch, value := v, quality := q }
    else { rt with latch }
  else rt

/-- The local output an OUT point targets (R59, R64). -/
def PointCfg.localTarget (c : PointCfg) : Option OutputNo :=
  if c.source = .feed ∧ c.targetKind = .localOut then
    if h : c.targetA.val < 8 then some ⟨c.targetA.val, h⟩ else none
  else none

/-- Step 4 of an update: OUT points take their values, and each changed one that targets a local
output is handed to it at once, in point order (R17, R62, R64). -/
def outStep (before : State) (every outAll : Bool) (s : State) : State :=
  let after : State := { s with
    points := updAll (fun p rt => outAfter before s every outAll s.tables.points[p] rt) s.points }
  (indicesOf (fun c : PointCfg => c.localTarget.isSome) s.tables.points).foldl (fun t p =>
    match s.tables.points[p].localTarget with
    | none => t
    | some o => if s.differs after p then handOver o after.points[p].value t else t) after

/-- Steps 2 to 4 of a granted update whose write step has led from `before` to `s` (R17). `also` are
the entries whose permits step 3 recomputes besides those it evaluates (R70). -/
def settle (before : State) (also : List InterlockNo) (s : State) : State :=
  outStep before false (decide (s.mode ≠ before.mode))
    (interlockStep before false also (derivedStep before false s))

/-! ## Releases (R23, R24, R26) -/

/-- A forced point leaves the forced list and takes value and quality from its source (R23). -/
def releasePoint (p : PointNo) (s : State) : State :=
  let c := s.tables.points[p]
  let s := { s with forced := s.forced.filter fun q => q != p }
  if c.source = .derived then
    updPoint p (fun rt => { rt with withheld := .absent }) (releaseDerived p s)
  else updPoint p (releaseIntake c) s

/-- Every forced point is released, in forced-list order (R24, R26). A DERIVED point reads its members as
the releases before its own have left them: log entry 22. -/
def releaseEvery (s : State) : State := s.forced.foldl (fun s p => releasePoint p s) s

/-! ## Write steps by source -/

/-- The points of a source and a source reference take one intake each (R8, R12, R15). -/
def intakeWhere (test : PointCfg → Bool) (raw : PointCfg → Raw) (s : State) : State :=
  { s with
    points := updAll (fun p rt =>
      let c := s.tables.points[p]
      if test c then intake c (s.isForced p) (raw c) rt else rt) s.points }

/-- The NODE points of a node (R8). -/
def ofNode (n : NodeNo) (c : PointCfg) : Bool := c.source = .node && c.refA.val == n.val

/-- The STATE points of a node (R12). -/
def stateOf (n : NodeNo) (c : PointCfg) : Bool := c.source = .state && c.refA.val == n.val

/-- The LINE points of an input (R15). -/
def ofInput (i : InputNo) (c : PointCfg) : Bool := c.source = .line && c.refA.val == i.val

/-- The CHANNEL points of a channel (R15). -/
def ofChannel (k : ChannelNo) (c : PointCfg) : Bool := c.source = .channel && c.refA.val == k.val

/-- Every NODE point of a node takes the reply's slots, and its hold timer is started (R8). -/
def refreshNode (n : NodeNo) (payload : List Octet) (s : State) : State :=
  let s := intakeWhere (ofNode n)
    (fun c => replySlot s.tables.nodes[n] payload c.refB.val) s
  { s with
    points := updAll (fun p rt =>
      let c := s.tables.points[p]
      if ofNode n c then { rt with hold := startTimer s (c.holdLimit * Config.millisecond) } else rt)
      s.points }

/-- The STATE points of a node take its state (R12, R22). -/
def writeState (n : NodeNo) (up : Bool) (s : State) : State :=
  intakeWhere (stateOf n) (fun _ => .bit up) s

/-- The stale policy is applied to every point that passes a test (R7). -/
def staleWhere (test : PointCfg → Bool) (s : State) : State :=
  { s with
    points := updAll (fun p rt =>
      let c := s.tables.points[p]
      if test c then applyStale c rt else rt) s.points }

/-- The NODE points of a lost node age as a batch and their hold timers are cancelled (R11). -/
def ageNode (n : NodeNo) (s : State) : State :=
  let s := staleWhere (ofNode n) s
  { s with
    points := updAll (fun p rt =>
      if ofNode n s.tables.points[p] then { rt with hold := .stopped } else rt) s.points }

end Sys2Proof.Machine
end

