-- ==== Sys2Proof/Machine/Ports.lean ====
section
/-! DEFINITION. The ports: outcomes, the beginning and the end of a transmission, and the receiver's
states (R82 to R85, R88, R95, R97, R98, R100). -/

namespace Sys2Proof.Machine

/-- A receive outcome is counted, and LINE_FAULT is set where R100 says so. -/
def giveOutcome (p : Port) (o : RxOutcome) (s : State) : State :=
  setFlagIf o.isFault .lineFault (countRx p o s)

/-- The receiver holds a reception in progress: RECEIVING with at least one octet (R89). -/
def PortRt.inProgress (r : PortRt) : Bool := decide (r.rx = .receiving) && !r.content.isEmpty

/-- The transmitter begins while a reception may be going on: it ends as BROKEN if it holds an octet,
and is reported to nobody (R83, R95). -/
def abandonReception (p : Port) (s : State) : State :=
  if (s.ports.get p).inProgress then giveOutcome p .broken s else s

/-- The awaited reply that the beginning of a telegram sets (R85). -/
def Outgoing.awaits (o : Outgoing) : Awaited :=
  match o.owner with
  | .poll _ => .reply o.telegram.dest
  | .forward true => .forwardAnswer
  | .forward false | .safe | .answer | .abandoned => .nothing

/-- The exchange of a segment is in flight from the first bit of its POLL (R124). -/
def SegRt.beginExchange (r : SegRt) : SegRt :=
  match r.work with
  | .exchange n _ => { r with work := .exchange n true }
  | .stopped | .forward | .turnaround | .gap | .done => r

/-- Sending begins: any reception is abandoned, the receiver closes, the busy flag and the awaited
reply are set (R83 to R85); a POLL is counted and its exchange is in flight (R124). -/
def beginSend (p : Port) (o : Outgoing) (s : State) : State :=
  let s := updPort p (fun r =>
    { r with
      rx := .seeking, content := [], bits := [], rxOpen := false, sending := some o
      awaited := o.awaits })
    (abandonReception p s)
  match o.owner, segOf p with
  | .poll n, some g => countNode n .pollsSent (updSeg g SegRt.beginExchange s)
  | _, _ => s

/-- The Poll Scheduler hands over a telegram: it is sent at once, or kept until the flag clears
(R84). -/
def giveToPort (g : Seg) (o : Outgoing) (s : State) : State :=
  if (s.ports.get (portOf g)).sending.isNone then beginSend (portOf g) o s
  else updSeg g (fun r => { r with outbox := r.outbox ++ [o] }) s

/-- The next telegram that waits for a segment's transmitter, if any, is handed over (R84). -/
def sendNext (g : Seg) (s : State) : State :=
  match (s.segs.get g).outbox with
  | [] => s
  | o :: rest =>
    if (s.ports.get (portOf g)).sending.isNone then
      beginSend (portOf g) o (updSeg g (fun r => { r with outbox := rest }) s)
    else s

/-- The end of a transmission at the port: flag cleared, receiver opened in SEEKING; the port is
re-initialised if a RESTART fell into the transmission (R83, R84). -/
def PortRt.released (r : PortRt) : PortRt :=
  if r.reinit then {}
  else { r with sending := none, rx := .seeking, content := [], bits := [], rxOpen := true }

/-- The SAFE telegram (R85, R134). -/
def safeTelegram : Outgoing :=
  ⟨⟨Config.allNodes, Config.junction, .safe, 0, []⟩, .safe⟩

/-- A telegram whose work is abandoned goes out to its end, owned by nobody (R84, R134). -/
def Outgoing.abandon (o : Outgoing) : Outgoing :=
  match o.owner with
  | .poll _ | .forward _ => { o with owner := .abandoned }
  | .safe | .answer | .abandoned => o

/-- A port as RESTART leaves it: its initial state, or, while it sends, that state once the telegram
has gone out (R82, R84). -/
def PortRt.restarted (r : PortRt) : PortRt :=
  match r.sending with
  | none => {}
  | some o => { rxOpen := false, sending := some o.abandon, reinit := true }

/-! ## Judging a good telegram -/

/-- The telegrams the Drive Port takes, by kind (R97). -/
def DriveKind.ofKind : Kind → Option DriveKind
  | .exchange => some .exchange
  | .manage => some .manage
  | .fetch => some .fetch
  | .forward => some .forward
  | .poll | .reply | .safe | .exchangeAnswer | .manageAnswer | .fetchAnswer | .forwardAnswer
  | .forwardAck => none

/-- The Drive Port's judgement: the telegram it takes, or NOT FOR US (R97). -/
def judgeDrive (s : State) (t : Telegram) : Option DriveTelegram :=
  match DriveKind.ofKind t.kind with
  | none => none
  | some k =>
    if t.src = s.tables.global.plcAddress ∧ t.dest ≠ 0 ∧
        (t.dest = Config.junction ∨ k = .forward) then
      some ⟨k, t.dest, t.seq, t.payload⟩
    else none

/-- The Spreader and Cab Port's judgement (R98). A telegram to address 0 is NOT FOR US on every port (R91),
also while nothing is awaited, when R98 finds every good telegram UNEXPECTED: DESIGN CHOICE (log entry 23,
unsafe). -/
def judgeNode (awaited : Awaited) (t : Telegram) : RxOutcome :=
  if t.dest = 0 then .notForUs else
  match awaited with
  | .nothing => .unexpected
  | .reply a =>
    if t.dest = Config.junction ∧ t.kind = .reply ∧ t.src = a then .taken else .notForUs
  | .forwardAnswer =>
    if t.dest = Config.junction ∧ t.kind = .forwardAnswer then .taken else .notForUs

/-! ## Line marks and content -/

/-- A fence met in SEEKING opens a reception (R88). -/
def PortRt.opened (r : PortRt) : PortRt :=
  if r.rxOpen ∧ r.rx = .seeking then { r with rx := .receiving, content := [], bits := [] } else r

/-- A content bit arrives in RECEIVING: bits are gathered in arrival order, the first of an octet its
least significant, and the eighth completes the octet (R88, R89). -/
def PortRt.collectBit (r : PortRt) (bit : Bool) : PortRt :=
  let bits := r.bits ++ [bit]
  if bits.length < 8 then { r with bits }
  else { r with content := r.content ++ [octetOfBits bits], bits := [] }

/-- A content octet is complete: it joins the collected octets, and its bits are spent (R89). -/
def PortRt.collectOctet (r : PortRt) (octet : Octet) : PortRt :=
  { r with content := r.content ++ [octet], bits := [] }

/-- A fence has ended the reception: its content is emptied, bits short of an octet with it (R88,
R89). -/
def PortRt.emptied (r : PortRt) : PortRt := { r with content := [], bits := [] }

/-- The receiver goes to SEEKING, its content discarded (R88, R95). -/
def PortRt.sought (r : PortRt) : PortRt := { r with rx := .seeking, content := [], bits := [] }

end Sys2Proof.Machine
end

