-- ==== Sys2Proof/Machine/Nodes.lean ====
section
/-! DEFINITION. The Node Table: POLL payloads, the judgement of a REPLY, and link states (R105 to R114),
with the Management Unit's test for the entry to RUN (R181). -/

namespace Sys2Proof.Machine

/-! ## POLL payloads (R63, R105) -/

/-- The values of the OUT points on a node's slots of one kind, each with its slot number. -/
def outSlots (s : State) (n : NodeNo) (kind : TargetKind) : List (Nat × Word32) :=
  (indicesOf (fun c : PointCfg =>
    decide (c.source = .feed) && decide (c.targetKind = kind) && c.targetA.val == n.val)
    s.tables.points).map fun p => (s.tables.points[p].targetB.val, s.points[p].value)

/-- The value on a slot; 0 where no OUT point targets it. -/
def slotValue (slots : List (Nat × Word32)) (k : Nat) : Word32 :=
  ((slots.find? fun e => e.1 == k).map Prod.snd).getD 0

/-- Bits 0 to `count - 1` packed eight to an octet, least significant first; the rest is 0. -/
def packBits (count : Nat) (bit : Nat → Bool) : List Octet :=
  (List.range ((count + 7) / 8)).map fun j =>
    (List.range 8).foldl (fun acc k =>
      if 8 * j + k < count ∧ bit (8 * j + k) then acc ||| ((1 : Octet) <<< k) else acc) 0

/-- The payload of a node's POLL (R105). -/
def pollPayload (s : State) (n : NodeNo) : List Octet :=
  let c := s.tables.nodes[n]
  let bits := outSlots s n .nodeOutBit
  let words := outSlots s n .nodeOutWord
  packBits c.outputBits (fun k => decide (slotValue bits k ≠ 0)) ++
    (List.range c.outputWords).flatMap fun j => octets16 ((slotValue words j).setWidth 16)

/-- The POLL of a node with its advanced sequence (R85, R124). -/
def pollTelegram (s : State) (n : NodeNo) : Outgoing :=
  ⟨⟨s.tables.nodes[n].address, Config.junction, .poll, s.nodes[n].lastSeq + 1, pollPayload s n⟩,
    .poll n⟩

/-! ## Outcomes -/

/-- The outcomes of an exchange (R107). -/
inductive ExchangeOutcome where
  | good (payload : List Octet)
  | timeout
  | noise
  | format
  | identity
  deriving DecidableEq, Repr

/-- The counter of an outcome (R117). -/
def ExchangeOutcome.counter : ExchangeOutcome → NodeCounter
  | .good _ => .goodReplies
  | .timeout => .timeout
  | .noise => .noise
  | .format => .format
  | .identity => .identity

/-- The payload length a node's REPLY must have (R106). -/
def NodeCfg.replyLength (c : NodeCfg) : Nat := 1 + (c.inputBits + 7) / 8 + 2 * c.inputWords

/-- The judgement of a REPLY that answers the exchange (R106). -/
def judgeReply (c : NodeCfg) (payload : List Octet) : ExchangeOutcome :=
  if payload.length ≠ c.replyLength then .format
  else if payload.head? ≠ some c.expectedType then .identity
  else .good payload

/-- R181's test: STARTING, every enabled node ONLINE, the exchange-taken mark set. -/
def State.readyToRun (s : State) : Bool :=
  decide (s.mode = .starting) && s.exchangeTaken &&
    (List.finRange 16).all fun n =>
      !s.tables.nodes[n].enabled || decide (s.nodes[n].link = .online)

/-- The requests `rs` are made and R181's test is carried out in one step. When the test first holds,
the start timer is cancelled and the entry to RUN is requested with them. -/
def requestAndTest (rs : List Request) (s : State) : State :=
  if s.readyToRun ∧ !s.runRequested then
    requestAll (rs ++ [.entryToRun]) { s with startTimer := .stopped, runRequested := true }
  else requestAll rs s

/-- A GOOD outcome after which the node is ONLINE (R110, R114). -/
def toOnline (n : NodeNo) (payload : List Octet) (rise : Bool) (s : State) : State :=
  requestAndTest [.replyIntake n payload rise]
    (updNode n (fun r => { r with link := .online, misses := 0, goods := 0 }) s)

/-- A GOOD outcome moves the node by its state (R110). -/
def goodOutcome (n : NodeNo) (payload : List Octet) (s : State) : State :=
  let r := s.nodes[n]
  let rejoinCount := s.tables.nodes[n].rejoinCount
  match r.link with
  | .absent => s
  | .silent => toOnline n payload true s
  | .online | .suspect => toOnline n payload false s
  | .lost =>
    if rejoinCount ≤ 1 then toOnline n payload true s
    else updNode n (fun r => { r with link := .rejoining, misses := 0, goods := 1 }) s
  | .rejoining =>
    if rejoinCount ≤ r.goods + 1 then toOnline n payload true s
    else updNode n (fun r => { r with misses := 0, goods := r.goods + 1 }) s

/-- The node comes to the point of loss: loss pending, and its request (R111, R113), at the instant of the
reply window's expiry where the miss is one. -/
def beginLoss (n : NodeNo) (instant : Option Nat) (s : State) : State :=
  request (.nodeLoss n instant)
    (updNode n (fun r => { r with misses := 0, goods := 0, lossPending := true }) s)

/-- A miss of any cause moves the node by its state (R111). -/
def missOutcome (n : NodeNo) (instant : Option Nat) (s : State) : State :=
  let r := s.nodes[n]
  let missLimit := s.tables.nodes[n].missLimit
  match r.link with
  | .absent | .silent | .lost => s
  | .online =>
    if missLimit ≤ 1 then beginLoss n instant s
    else updNode n (fun r => { r with link := .suspect, misses := 1, goods := 0 }) s
  | .suspect =>
    if missLimit ≤ r.misses + 1 then beginLoss n instant s
    else updNode n (fun r => { r with misses := r.misses + 1, goods := 0 }) s
  | .rejoining => beginLoss n instant s

/-- An outcome reaches the Node Table: it is counted (R117), an IDENTITY miss sets its flag (R112),
and unless the node's loss is pending (R113) it moves the link state. The flag is set while the loss
is pending too: log entry 10. -/
def nodeOutcome (n : NodeNo) (o : ExchangeOutcome) (instant : Option Nat) (s : State) : State :=
  let s := setFlagIf (decide (o = .identity)) .nodeIdentity (countNode n o.counter s)
  if s.nodes[n].lossPending then s
  else match o with
    | .good payload => goodOutcome n payload s
    | .timeout | .noise | .format | .identity => missOutcome n instant s

end Sys2Proof.Machine
end

