-- ==== Sys2Proof/Machine/Scheduler.lean ====
section
/-! DEFINITION. The Poll Scheduler and the Forwarding Unit: poll lists, segment work, exchanges,
forwards with their records, cycle starts, abandonment and the hold gap (R119 to R135, R137 to
R147). -/

namespace Sys2Proof.Machine

/-! ## Return records (R145) -/

/-- A record joins the return queue; a full queue discards its oldest first. -/
def addReturn (r : ReturnRecord) (s : State) : State :=
  if s.returns.length < Config.maxReturns then { s with returns := s.returns ++ [r] }
  else setFlag .returnOverwritten { s with returns := s.returns.drop 1 ++ [r] }

/-! ## Work of a segment -/

/-- The segment enters TURNAROUND and its timer starts (R127). -/
def enterTurnaround (g : Seg) (s : State) : State :=
  updSeg g (fun r => { r with work := .turnaround, turnaround := startTimer s (turnaroundTime s g) }) s

/-- The awaited reply of a segment's port is cleared (R85). -/
def clearAwaited (g : Seg) (s : State) : State :=
  updPort (portOf g) (fun r => { r with awaited := .nothing }) s

/-- A poll exchange ends with its outcome (R125 to R127). -/
def endExchange (g : Seg) (n : NodeNo) (o : ExchangeOutcome) (instant : Option Nat) (s : State) :
    State :=
  enterTurnaround g
    (nodeOutcome n o instant
      (clearAwaited g (updSeg g (fun r => { r with window := .stopped, windowExpired := false }) s)))

/-- A forward ends with its record (R142 to R145). -/
def endForward (g : Seg) (f : Forward) (o : ReturnOutcome) (s : State) : State :=
  enterTurnaround g
    (addReturn ⟨f.tag, o⟩
      (clearAwaited g
        (updSeg g
          (fun r => { r with inFlight := none, answerWindow := .stopped, answerExpired := false })
          s)))

/-- A node is polled: its sequence advances, and its POLL is handed over (R124). -/
def pollNode (g : Seg) (n : NodeNo) (s : State) : State :=
  giveToPort g (pollTelegram s n)
    (updNode n (fun r => { r with lastSeq := r.lastSeq + 1 })
      (updSeg g (fun r => { r with work := .exchange n false }) s))

/-- The FORWARD telegram of a forward (R85, R142). -/
def forwardTelegram (f : Forward) : Outgoing :=
  ⟨⟨f.dest, Config.junction, .forward, Fin.ofNat 4 f.tag.toNat, f.payload⟩, .forward f.answerWanted⟩

/-- The oldest forward of the queue is begun (R128, R142). -/
def beginForward (g : Seg) (f : Forward) (rest : List Forward) (s : State) : State :=
  giveToPort g (forwardTelegram f)
    (updSeg g
      (fun r => { r with work := .forward, forwardSent := true, inFlight := some f, queue := rest })
      s)

/-- The segment takes its next work (R123). -/
def selectWork (g : Seg) (s : State) : State :=
  let r := s.segs.get g
  match r.pollList[r.next]? with
  | some n => pollNode g n (updSeg g (fun r => { r with next := r.next + 1 }) s)
  | none =>
    if r.forwardSent then updSeg g (fun r => { r with work := .done }) s
    else match r.queue with
      | f :: rest => beginForward g f rest s
      | [] => updSeg g (fun r => { r with work := .gap }) s

/-! ## Receptions during an exchange or a forward -/

/-- What a port hands to the owner of the work in flight when a reception ends (R98, R99). -/
inductive HandOver where
  | taken (t : Telegram)
  | notForUs
  | fault
  deriving DecidableEq, Repr

/-- A reception ends during an exchange (R125, R126). -/
def exchangeReception (g : Seg) (n : NodeNo) (h : HandOver) (s : State) : State :=
  let expired := (s.segs.get g).windowExpired
  match h with
  | .taken t =>
    if t.seq = s.nodes[n].lastSeq then endExchange g n (judgeReply s.tables.nodes[n] t.payload) none s
    else
      let s := countNode n .lateReplies s
      if expired then endExchange g n .timeout none s else s
  | .notForUs => if expired then endExchange g n .timeout none s else s
  | .fault => endExchange g n .noise none s

/-- A reception ends during a forward whose answer is awaited (R143, R144). An answer of source 0 is
recorded with that address: DEDUCED (log entry 28, unsafe), since R145 gives 1..63. -/
def forwardReception (g : Seg) (f : Forward) (h : HandOver) (s : State) : State :=
  let expired := (s.segs.get g).answerExpired
  match h with
  | .taken t =>
    if t.seq = Fin.ofNat 4 f.tag.toNat then endForward g f (.answered t.src t.payload) s
    else if expired then endForward g f .noAnswer s else s
  | .notForUs => if expired then endForward g f .noAnswer s else s
  | .fault => endForward g f .garbled s

/-- A reception ends on a segment's port: the owner of an awaited reply is told (R98, R99). -/
def segReception (g : Seg) (h : HandOver) (s : State) : State :=
  let r := s.segs.get g
  match (s.ports.get (portOf g)).awaited, r.work, r.inFlight with
  | .reply _, .exchange n true, _ => exchangeReception g n h s
  | .forwardAnswer, .forward, some f => forwardReception g f h s
  | _, _, _ => s

/-- The reply window has run out, at the instant `due` (R126). -/
def windowClose (g : Seg) (due : Nat) (s : State) : State :=
  match (s.segs.get g).work with
  | .exchange n true =>
    if (s.ports.get (portOf g)).inProgress then
      updSeg g (fun r => { r with window := .stopped, windowExpired := true }) s
    else endExchange g n .timeout (some due) s
  | _ => updSeg g (fun r => { r with window := .stopped }) s

/-- The answer window has run out (R144). -/
def answerClose (g : Seg) (s : State) : State :=
  match (s.segs.get g).work, (s.segs.get g).inFlight with
  | .forward, some f =>
    if (s.ports.get (portOf g)).inProgress then
      updSeg g (fun r => { r with answerWindow := .stopped, answerExpired := true }) s
    else endForward g f .noAnswer s
  | _, _ => updSeg g (fun r => { r with answerWindow := .stopped }) s

/-- A segment's telegram has left the line (R84): its exchange's window starts (R125), its forward's
answer window starts or its SENT record is made (R142). -/
def sentOnSegment (g : Seg) (owner : Owner) (s : State) : State :=
  let r := s.segs.get g
  match owner, r.work, r.inFlight with
  | .poll _, .exchange _ true, _ =>
    updSeg g (fun r => { r with window := startTimer s (replyWindow s g) }) s
  | .forward true, .forward, some _ =>
    updSeg g (fun r => { r with answerWindow := startTimer s (replyWindow s g) }) s
  | .forward false, .forward, some f => endForward g f .sent s
  | _, _, _ => s

/-! ## Cycle starts -/

/-- The poll list of a segment in the present slot (R122). -/
def formList (s : State) (g : Seg) : List NodeNo :=
  indicesOf (fun c : NodeCfg => c.enabled && decide (c.segment = g) && c.pollMask.getLsbD s.slot)
    s.tables.nodes

/-- The segment has overrun at a cycle start, with these nodes of its list not yet polled (R129). -/
def SegRt.overruns? (r : SegRt) : Bool :=
  match r.work with
  | .exchange .. | .forward => true
  | .turnaround => !(r.pollList.drop r.next).isEmpty
  | .stopped | .gap | .done => false

/-- An overrun: the nodes not polled are skipped, the counter rises, the flag is set (R129, R130). -/
def overrun (g : Seg) (s : State) : State :=
  let r := s.segs.get g
  let s := (r.pollList.drop r.next).foldl (fun s n => countNode n .skips s) s
  setFlag .cycleOverrun (updSeg g (fun r => { r with overruns := bump r.overruns }) s)

/-- A cycle start on one segment (R122, R129). -/
def segCycleStart (g : Seg) (s : State) : State :=
  let r := s.segs.get g
  let s := if r.overruns? then overrun g s else s
  let s := updSeg g (fun r => { r with pollList := formList s g, next := 0, forwardSent := false }) s
  match r.work with
  | .gap | .done | .stopped => selectWork g s
  | .exchange .. | .forward | .turnaround => s

/-- A cycle start acts on both segments (R120). -/
def cycleStartBoth (s : State) : State := segCycleStart .cab (segCycleStart .spreader s)

/-! ## Abandonment (R134, R135, R147) -/

/-- The forwards of a segment that have not ended, in flight first (R147). -/
def SegRt.unended (r : SegRt) : List Forward := r.inFlight.toList ++ r.queue

/-- Every forward that has not ended becomes a DROPPED record (R147). -/
def dropForwards (s : State) : State :=
  (s.segs.spreader.unended ++ s.segs.cab.unended).foldl
    (fun s f => addReturn ⟨f.tag, .dropped⟩ s) s

/-- A segment whose work is abandoned; its overrun counter stands, and a SAFE that still waits for the
transmitter is kept (R119, R134; log entry 8). -/
def SegRt.abandoned (r : SegRt) : SegRt :=
  { overruns := r.overruns, outbox := r.outbox.filter fun o => decide (o.owner = .safe) }

/-- The work of a segment is abandoned (R134 steps 1 to 4). -/
def abandonWork (g : Seg) (s : State) : State :=
  updPort (portOf g)
    (fun r => { r with awaited := .nothing, sending := r.sending.map Outgoing.abandon })
    (updSeg g SegRt.abandoned s)

/-- SAFE is handed to both ports (R134 step 5). -/
def sendSafe (s : State) : State := giveToPort .cab safeTelegram (giveToPort .spreader safeTelegram s)

/-! ## Taking a FORWARD (R138 to R141) -/

/-- An entry matches a destination (R138). -/
def ForwardCfg.routes (c : ForwardCfg) (d : Addr) : Bool :=
  c.target.isSome &&
    decide (BitVec.ofNat 6 d.val &&& BitVec.ofNat 6 c.matchMask.val =
      BitVec.ofNat 6 c.matchValue.val &&& BitVec.ofNat 6 c.matchMask.val)

/-- The lowest-numbered used entry that matches: its target and whether an answer is expected
(R138). -/
def route (s : State) (d : Addr) : Option (Seg × Bool) :=
  (s.tables.forwards.toList.find? fun c => c.routes d).bind fun c =>
    c.target.map fun g => (g, c.answerExpected)

/-- `d` is the address of an enabled node of the segment that is neither ONLINE nor SUSPECT (R139
row 4). -/
def nodeDown (s : State) (g : Seg) (d : Addr) : Bool :=
  (List.finRange 16).any fun n =>
    let c := s.tables.nodes[n]
    c.enabled && decide (c.segment = g) && decide (c.address = d) && !s.nodes[n].link.up

/-- A forward joins its segment's queue; a segment in GAP begins it at once (R128, R141). -/
def queueForward (g : Seg) (f : Forward) (s : State) : State :=
  let s := updSeg g (fun r => { r with queue := r.queue ++ [f] }) s
  match (s.segs.get g).work, (s.segs.get g).queue with
  | .gap, f :: rest => beginForward g f rest s
  | _, _ => s

/-- Outcome of a FORWARD ACK (R139). -/
inductive AckOutcome where
  | taken (tag : BitVec 8)
  | full
  | noRoute
  | mode
  | nodeDown
  deriving DecidableEq, Repr

/-- The payload of a FORWARD ACK (R139). -/
def AckOutcome.payload : AckOutcome → List Octet
  | .taken tag => [0, tag]
  | .full => [1]
  | .noRoute => [2]
  | .mode => [3]
  | .nodeDown => [4]

/-- A TAKEN FORWARD is decided by the first row of R139 that applies. -/
def decideForward (d : Addr) (payload : List Octet) (s : State) : AckOutcome × State :=
  if s.mode = .config then (.mode, s)
  else if d = Config.junction then (.noRoute, s)
  else match route s d with
    | none => (.noRoute, s)
    | some (g, expected) =>
      if nodeDown s g d then (.nodeDown, s)
      else if Config.maxForwards ≤ (s.segs.get g).queue.length then (.full, s)
      else
        let f : Forward := ⟨s.tag, d, expected && decide (d ≠ Config.allNodes), payload⟩
        (.taken s.tag, queueForward g f { s with tag := s.tag + 1 })

/-- The FETCH ANSWER payload of a record, or of the empty queue (R146). -/
def fetchPayload : Option ReturnRecord → List Octet
  | none => [0]
  | some r =>
    match r.outcome with
    | .answered a payload =>
      [if payload.length ≤ 247 then 1 else 6, r.tag, BitVec.ofNat 8 a.val] ++ payload.take 247
    | .garbled => [2, r.tag]
    | .noAnswer => [3, r.tag]
    | .sent => [4, r.tag]
    | .dropped => [5, r.tag]

/-! ## Hold gap (R131) -/

/-- The distance from slot `b` to the next slot of the mask, going round the pattern; `p` where no
slot below `p` is set. -/
def slotDistance (mask : Word16) (p b : Nat) : Nat :=
  (((List.range p).map (· + 1)).find? fun k => mask.getLsbD ((b + k) % p)).getD p

/-- The hold gap of a mask for the pattern period `p`. -/
def holdGap (mask : Word16) (p : Nat) : Nat :=
  let slots := (List.range p).filter fun b => mask.getLsbD b
  if slots.isEmpty then p else slots.foldl (fun g b => max g (slotDistance mask p b)) 0

/-- A hold limit meets the hold gap of a mask (R131). -/
def meetsHoldGap (g : GlobalCfg) (mask : Word16) (holdLimit : Nat) : Bool :=
  decide ((holdGap mask g.patternPeriod + 1) * g.cyclePeriod ≤ 10 * holdLimit)

/-- The mask has a bit set below the pattern period (R103, R133). -/
def hasSlot (g : GlobalCfg) (mask : Word16) : Bool :=
  (List.range g.patternPeriod).any fun b => mask.getLsbD b

end Sys2Proof.Machine
end

