-- ==== Sys2Proof/Machine/Validate.lean ====
section
/-! DEFINITION. START validation (R179): for each table in ascending id, each entry in ascending
number, the checks on that entry in ascending code (R2 to R4, R30, R44, R45, R59, R66, R103, R132,
R149, R152, R161, R178). -/

namespace Sys2Proof.Machine

/-- A check that failed: table, entry and check code (R171, R179). -/
structure Failure where
  table : Nat
  entry : Nat
  code : Nat
  deriving DecidableEq, Repr

/-- The first check code of a list in ascending order whose fault is present. -/
def firstFault (checks : List (Nat × Bool)) : Option Nat :=
  (checks.find? fun c => c.2).map Prod.fst

/-- The first failure of a table's entries in ascending order. -/
def tableFault {α : Type} {n : Nat} (table : Nat) (entries : Vector α n)
    (check : Fin n → α → Option Nat) : Option Failure :=
  ((List.finRange n).zip entries.toList).findSome? fun e =>
    (check e.1 e.2).map fun code => ⟨table, e.1.val, code⟩

/-! ## POINT -/

/-- The source of a point. -/
def Tables.source (ts : Tables) (p : PointNo) : Source := ts.points[p].source

/-- The node entry a point's source ref A names, if it is not above 15. -/
def PointCfg.node? (c : PointCfg) : Option NodeNo :=
  if h : c.refA.val < 16 then some ⟨c.refA.val, h⟩ else none

/-- The channel a point's source ref A names, if it is not above 3. -/
def PointCfg.channel? (c : PointCfg) : Option ChannelNo :=
  if h : c.refA.val < 4 then some ⟨c.refA.val, h⟩ else none

/-- The local input a point's source ref A names, if it is not above 7. -/
def PointCfg.input? (c : PointCfg) : Option InputNo :=
  if h : c.refA.val < 8 then some ⟨c.refA.val, h⟩ else none

/-- A NODE point's selector names an input bit. -/
def PointCfg.onBit (c : PointCfg) : Bool := decide (c.refB.val < 64)

/-- A NODE point's selector names an input word. -/
def PointCfg.onWord (c : PointCfg) : Bool := decide (256 ≤ c.refB.val) && decide (c.refB.val ≤ 263)

/-- A value within limits; a CNT point has none (R4). -/
def PointCfg.within (c : PointCfg) (v : Word32) : Bool :=
  match c.limits with
  | none => true
  | some (lo, hi) => decide (lo ≤ v.toInt) && decide (v.toInt ≤ hi)

/-- The point is a WORD point whose limits lie within `lo..hi`. -/
def PointCfg.wordWithin (c : PointCfg) (lo hi : Int) : Bool :=
  decide (c.form = .word) && decide (lo ≤ c.low.toInt) && decide (c.high.toInt ≤ hi)

/-- Check 2: the form is not one the source may take (R3). The form of a NODE point with a faulty
selector and of a DERIVED point bound to no entry are not judged (R179). -/
def formFault (ts : Tables) (c : PointCfg) : Bool :=
  match c.source with
  | .unused => false
  | .node =>
    if c.onBit then decide (c.form ≠ .bin)
    else if c.onWord then decide (c.form = .bin)
    else false
  | .plc => decide (c.form = .cnt)
  | .line | .state => decide (c.form ≠ .bin)
  | .channel => decide (c.form ≠ .ana)
  | .derived =>
    match ts.derived[c.refA].kind with
    | .unused => false
    | .trip => decide (c.form ≠ .bin)
    | .sum | .ratio => decide (c.form ≠ .ana)
  | .feed => decide (c.form ≠ .bin ∧ c.form ≠ .word)

/-- Check 3: the limits are out of order, or a CNT point's are not 0 and all ones (R4). -/
def limitFault (c : PointCfg) : Bool :=
  match c.form with
  | .bin => false
  | .word | .ana => decide (c.high.toInt < c.low.toInt)
  | .cnt => decide (c.low ≠ 0 ∨ c.high ≠ BitVec.allOnes 32)

/-- Check 4: the safe value of a NODE or PLC point, or the blocked value of an OUT point, outside the
limits (R4, R59). -/
def substituteFault (c : PointCfg) : Bool :=
  match c.source with
  | .node | .plc => !c.within c.safeValue
  | .feed => !c.within c.blocked
  | .unused | .line | .channel | .state | .derived => false

/-- Check 5: the hold gap (R132), on a NODE point whose node reference is sound. -/
def holdGapFault (ts : Tables) (c : PointCfg) : Bool :=
  decide (c.source = .node) &&
    match c.node? with
    | none => false
    | some n => !meetsHoldGap ts.global ts.nodes[n].pollMask c.holdLimit

/-- Check 6: a node reference above 15, a selector that names no slot, or a slot beyond the node's
declared counts (R59, R103). -/
def slotFault (ts : Tables) (c : PointCfg) : Bool :=
  match c.source with
  | .state => c.node?.isNone
  | .node =>
    match c.node? with
    | none => true
    | some n =>
      if c.onBit then decide (ts.nodes[n].inputBits ≤ c.refB.val)
      else if c.onWord then decide (ts.nodes[n].inputWords ≤ c.refB.val - 256)
      else true
  | .feed =>
    match c.targetKind with
    | .nodeOutBit => decide (ts.nodes[c.targetA].outputBits ≤ c.targetB.val)
    | .nodeOutWord => decide (ts.nodes[c.targetA].outputWords ≤ c.targetB.val)
    | .nothing | .localOut => false
  | .unused | .plc | .line | .channel | .derived => false

/-- Check 9 on a DERIVED point: its entry is unused or bound to another point (R44). -/
def bindingFault (ts : Tables) (p : PointNo) (c : PointCfg) : Bool :=
  decide (c.source = .derived) &&
    let d := ts.derived[c.refA]
    decide (d.kind = .unused) || decide (d.result ≠ p)

/-- Check 10 on an OUT point: its guard is an unused entry (R59). -/
def guardFault (ts : Tables) (c : PointCfg) : Bool :=
  decide (c.source = .feed) &&
    match c.guard with
    | none => false
    | some e => decide (ts.interlocks[e].mode = .unused)

/-- Two OUT points drive the same node slot or the same local output (R59). -/
def sameTarget (a b : PointCfg) : Bool :=
  decide (a.source = .feed) && decide (b.source = .feed) && decide (a.targetKind = b.targetKind) &&
    match a.targetKind with
    | .nothing => false
    | .nodeOutBit | .nodeOutWord => decide (a.targetA = b.targetA) && decide (a.targetB = b.targetB)
    | .localOut => decide (a.targetA = b.targetA)

/-- Check 11 on an OUT point: feed, shared target, or target and form (R59). `lower` are the OUT
points of lower number. -/
def targetFault (ts : Tables) (lower : List PointCfg) (c : PointCfg) : Bool :=
  decide (c.source = .feed) &&
    (decide (ts.source c.refB = .feed) || lower.any (sameTarget c) ||
      match c.targetKind with
      | .nothing => false
      | .nodeOutBit => decide (c.form ≠ .bin)
      | .nodeOutWord => !c.wordWithin (-32768) 65535
      | .localOut => decide (7 < c.targetA.val))

/-- Check 12 on a PLC point: it stands in no write list entry (R178). -/
def unlistedFault (ts : Tables) (p : PointNo) (c : PointCfg) : Bool :=
  decide (c.source = .plc) && !ts.writeList.toList.contains (some p)

/-- Check 13: a LINE or CHANNEL reference, or an OUT point on a TRAIN or DUTY output (R149, R152,
R161). -/
def localFault (ts : Tables) (c : PointCfg) : Bool :=
  match c.source with
  | .line => c.input?.isNone
  | .channel =>
    match c.channel? with
    | none => true
    | some k => decide (ts.channels[k].mode = .off)
  | .feed =>
    match c.targetKind with
    | .localOut =>
      if h : c.targetA.val < 8 then
        match ts.outputs[c.targetA.val].mode with
        | .train | .duty => !c.wordWithin 0 255
        | .steady | .pattern => false
      else false
    | .nothing | .nodeOutBit | .nodeOutWord => false
  | .unused | .node | .plc | .state | .derived => false

/-- The checks on a point record. A record of source NONE is unused, and no check is made on it: log
entry 25. -/
def pointFault (ts : Tables) (p : PointNo) (c : PointCfg) : Option Nat :=
  if c.source = .unused then none
  else
    let outs := (indicesOf (fun c : PointCfg => decide (c.source = .feed)) ts.points).filter
      fun q => q.val < p.val
    firstFault
      [(1, decide (c.source = .feed) && decide (ts.source c.refB = .unused)), (2, formFault ts c),
        (3, limitFault c), (4, substituteFault c), (5, holdGapFault ts c), (6, slotFault ts c),
        (9, bindingFault ts p c), (10, guardFault ts c),
        (11, targetFault ts (if c.source = .feed then outs.map fun q => ts.points[q] else []) c),
        (12, unlistedFault ts p c), (13, localFault ts c)]

/-! ## The other tables -/

/-- The checks on a node entry (R103). -/
def nodeFault (ts : Tables) (n : NodeNo) (c : NodeCfg) : Option Nat :=
  if c.enabled then
    firstFault
      [(7, decide (c.address = 0 ∨ c.address = Config.junction ∨ c.address = Config.allNodes) ||
          (List.finRange 16).any fun m =>
            decide (m < n) && ts.nodes[m].enabled && decide (ts.nodes[m].segment = c.segment) &&
              decide (ts.nodes[m].address = c.address)),
        (8, !hasSlot ts.global c.pollMask)]
  else none

/-- The member count does not agree with the kind (R45). -/
def memberCountFault (d : DerivedCfg) : Bool :=
  match d.kind with
  | .unused => false
  | .sum => decide (d.count = 0)
  | .ratio => decide (d.count ≠ 2)
  | .trip => decide (d.count ≠ 1)

/-- The levels of a TRIP stand in the wrong order (R45). -/
def tripLevelFault (d : DerivedCfg) : Bool :=
  decide (d.kind = .trip) &&
    if d.falling then decide (d.resetLevel.toInt ≤ d.setLevel.toInt)
    else decide (d.setLevel.toInt ≤ d.resetLevel.toInt)

/-- A member names an OUT point, or the result of this entry or a higher one (R45). -/
def memberFault (ts : Tables) (e : DerivedNo) (m : Member) : Bool :=
  match ts.source m.point with
  | .feed => true
  | .derived => decide (e ≤ ts.points[m.point].refA)
  | .unused | .node | .plc | .line | .channel | .state => false

/-- The checks on a derived entry (R2, R44, R45). -/
def derivedFault (ts : Tables) (e : DerivedNo) (d : DerivedCfg) : Option Nat :=
  if d.kind = .unused then none
  else
    firstFault
      [(1, decide (ts.source d.result = .unused) ||
          d.used.any fun m => decide (ts.source m.point = .unused)),
        (9, decide (ts.source d.result ≠ .derived) || decide (ts.points[d.result].refA ≠ e) ||
          memberCountFault d || (decide (d.kind = .sum) && d.used.any fun m => decide (m.weight = 0)) ||
          d.used.any (memberFault ts e) || tripLevelFault d)]

/-- The terms used, terms 1 to the term count (R65). -/
def InterlockCfg.used (c : InterlockCfg) : List TermCfg := c.terms.toList.take c.count.val

/-- The checks on an interlock entry (R66). -/
def interlockFault (ts : Tables) (c : InterlockCfg) : Option Nat :=
  if c.mode = .unused then none
  else
    firstFault
      [(1, c.used.any fun t => decide (ts.source t.point = .unused)),
        (10, decide (c.count = 0) || c.used.any fun t => decide (ts.source t.point = .feed))]

/-- A used entry stands after an unused one (R178). -/
def gapBefore {n : Nat} (list : Vector (Option PointNo) n) (k : Nat) : Bool :=
  (list.toList.take k).any Option.isNone

/-- The checks on a write list entry (R2, R178). -/
def writeListFault (ts : Tables) (k : Nat) : Option PointNo → Option Nat
  | none => none
  | some p =>
    firstFault
      [(1, decide (ts.source p = .unused)),
        (12, gapBefore ts.writeList k || decide (ts.source p ≠ .plc) ||
          (ts.writeList.toList.take k).contains (some p))]

/-- The checks on an emit list entry (R178). -/
def emitListFault (ts : Tables) (k : Nat) : Option PointNo → Option Nat
  | none => none
  | some p =>
    firstFault [(1, decide (ts.source p = .unused)), (12, gapBefore ts.emitList k)]

/-- The checks on a local output entry (R152), made whether or not an OUT point targets the output: log
entry 24. -/
def outputFault (c : OutputCfg) : Option Nat :=
  firstFault
    [(13, decide (c.mode = .train) &&
      (decide (c.highTime = 0) || decide (c.lowTime = 0) ||
        (decide (8 ≤ c.enableInput.toNat) && decide (c.enableInput.toNat ≤ 254))))]

/-- The checks on a channel entry (R161). -/
def channelFault (k : ChannelNo) (c : ChannelCfg) : Option Nat :=
  firstFault
    [(13, decide (c.index ≠ .nothing) &&
      (decide (k ≠ 0) ||
        match c.mode with
        | .period | .width => true
        | .count => decide (c.preset < 0) || (decide (c.limit ≠ 0) && decide (c.limit < c.preset))
        | .off | .quad => false))]

/-- START validation: the first failure, in table, entry and check code order (R179). -/
def validate (ts : Tables) : Option Failure :=
  (tableFault 1 ts.points (pointFault ts)).or <|
  (tableFault 2 ts.nodes (nodeFault ts)).or <|
  (tableFault 3 ts.derived (derivedFault ts)).or <|
  (tableFault 4 ts.interlocks fun _ => interlockFault ts).or <|
  (tableFault 6 ts.writeList fun k => writeListFault ts k.val).or <|
  (tableFault 7 ts.emitList fun k => emitListFault ts k.val).or <|
  (tableFault 8 ts.outputs fun _ => outputFault).or <|
  tableFault 10 ts.channels channelFault

end Sys2Proof.Machine
end

