-- ==== Sys2Proof/Machine/Modes.lean ====
section
/-! DEFINITION. What START, the entry to RUN, STOP, RESTART, the reset line and the supply do to every
block (R25 to R27, R72, R80, R115, R116, R135, R147, R153, R155, R162, R180 to R183). -/

namespace Sys2Proof.Machine

/-! ## Present values of the sources that always hold one (R21, R25) -/

/-- The accepted level a LINE point reads. -/
def acceptedLevel (s : State) (c : PointCfg) : Bool :=
  match c.input? with
  | none => false
  | some i => s.inputs[i].pin.accepted

/-- The measurement a CHANNEL point reads. -/
def presentMeasurement (s : State) (c : PointCfg) : Word32 :=
  match c.channel? with
  | none => 0
  | some k => measurement s.tables.channels[k] s.channels[k]

/-- The state a STATE point reads (R12). -/
def presentState (s : State) (c : PointCfg) : Bool :=
  match c.node? with
  | none => false
  | some n => s.nodes[n].link.up

/-! ## START (R25, R180) -/

/-- The runtime of a used point after START, before steps 2 to 4 (R25). -/
def startPoint (s : State) (c : PointCfg) (rt : PointRt) : PointRt :=
  let rt := { rt with hold := .stopped, withheld := .absent, latch := false }
  match c.source with
  | .unused => rt
  | .node | .plc | .derived =>
    { rt with value := c.zeroClamped, quality := .unset, lastRaw := 0, seed := false }
  | .line => { rt with value := wordOfBool (acceptedLevel s c != c.invert), quality := .good }
  | .channel =>
    let (v, q) := convert c (.measure (presentMeasurement s c))
    { rt with value := v, quality := q }
  | .state => { rt with value := 0, quality := .good }
  | .feed => { rt with value := c.blocked, quality := .unset }

/-- A node after START (R109). -/
def startNode (c : NodeCfg) (r : NodeRt) : NodeRt :=
  { link := if c.enabled then .silent else .absent, lastSeq := 3, counters := r.counters }

/-- A channel after START: armed, its sample timer started unless its mode is OFF (R162). -/
def startChannel (now : Nat) (c : ChannelCfg) (r : ChannelRt) : ChannelRt :=
  { arm c r with
    sample := if c.mode = .off then .stopped else .running (now + sampleInterval c) }

/-- The first period start of every DUTY output (R156). -/
def startDuty (s : State) : State :=
  { s with
    outputs := updAll (fun o rt =>
      if s.tables.outputs[o].mode = .duty then
        { periodBegin s.now rt with period := .running (s.now + tenMs) }
      else rt) s.outputs }

/-- The trip states at the fail values (R46). -/
def failTrips (ts : Tables) : Vector Bool 32 := ts.derived.map DerivedCfg.failValue

/-- What START sets before the image steps (R25, R72, R109, R155, R180). -/
def startWrites (s : State) : State :=
  let s := clearInterlocks { s with
    mode := .starting
    trips := failTrips s.tables
    nodes := updAll (fun n r => startNode s.tables.nodes[n] r) s.nodes
    channels := updAll (fun k r => startChannel s.now s.tables.channels[k] r) s.channels
    forced := []
    cycleTimer := .running (s.now + cyclePeriodUnits s)
    slot := 0
    lampIndex := 0
    lampTimer := .running (s.now + lampStepTime s)
    startTimer := .running (s.now + s.tables.global.startTimeout * Config.second)
    silenceTimer := .running (s.now + s.tables.global.silenceLimit * Config.millisecond)
    exchangeTaken := false
    plcSilent := false
    runRequested := false }
  let s := quietOutputs s
  { s with points := updAll (fun p rt => startPoint s s.tables.points[p] rt) s.points }

/-- A START that has passed validation (R25, R120, R156, R180). Every point counts as changed. -/
def startPart (before : State) : State :=
  let s := startWrites before
  cycleStartBoth
    (startDuty (outStep before true true (interlockStep before true [] (derivedStep before true s))))

/-! ## Entry to RUN (R115, R181) -/

/-- A node still SILENT enters LOST (R115). -/
def loseSilent (n : NodeNo) (s : State) : State :=
  if s.nodes[n].link = .silent then
    setFlag .nodeLost
      (ageNode n (updNode n (fun r => { r with link := .lost, misses := 0, goods := 0 }) s))
  else s

/-- The entry to RUN (R75, R115, R181). -/
def enterRun (before : State) : State :=
  let s := (List.finRange 16).foldl (fun s n => loseSilent n s) before
  settle before [] { s with mode := .run, startTimer := .stopped }

/-! ## STOP (R26, R116, R182) -/

/-- A point in the write step of STOP, once the forces are released (R26). A STATE point becomes 0 and keeps
its quality, so a result whose members are STATE points only stays GOOD, and a trip on one goes by its
value: DEDUCED (log entry 19, unsafe), since R57 can be read to make them STALE and the fail value. -/
def stopPoint (c : PointCfg) (rt : PointRt) : PointRt :=
  let rt := { rt with hold := .stopped }
  match c.source with
  | .node | .plc =>
    match rt.quality with
    | .good | .limited => { rt with quality := .stale }
    | .unset | .stale | .substituted | .forced => rt
  | .state => { rt with value := 0 }
  | .unused | .line | .channel | .derived | .feed => rt

/-- A node after STOP (R104, R116). -/
def stopNode (r : NodeRt) : NodeRt := { lastSeq := r.lastSeq, counters := r.counters }

/-- What STOP writes before steps 2 to 4 (R26, R116, R182). -/
def stopWrites (s : State) : State :=
  let s := releaseEvery s
  { s with
    points := updAll (fun p rt => stopPoint s.tables.points[p] rt) s.points
    forced := []
    nodes := s.nodes.map stopNode
    mode := .config
    startTimer := .stopped
    silenceTimer := .stopped
    exchangeTaken := false
    plcSilent := false
    runRequested := false }

/-- STOP granted in STARTING or RUN (R26, R134, R147, R182). -/
def stopPart (before : State) : State :=
  let s := interlockStep before false [] (derivedStep before false (stopWrites before))
  let s := outStep before false true (clearInterlocks s)
  let s := quietOutputs s
  let s := { s with
    lampIndex := 0
    lampTimer := .stopped
    channels := s.channels.map fun r => { r with sample := .stopped }
    cycleTimer := .stopped
    slot := 0 }
  sendSafe (abandonWork .cab (abandonWork .spreader (dropForwards s)))

/-! ## RESTART, the reset line and the supply -/

/-- A point after RESTART, a WRITE ENTRY or a CLEAR TABLE (R5). -/
def freshPoint (c : PointCfg) : PointRt :=
  { value := if c.source = .feed then c.blocked else 0 }

/-- The inputs measure on: each takes its line level without debounce (R149). -/
def restartInputs (s : State) : Vector InputRt 8 :=
  s.inputs.map fun r => { pin := r.pin.settled }

/-- The channels after RESTART, armed in their modes (R162). -/
def restartChannels (s : State) : Vector ChannelRt 4 :=
  updAll (fun k r => arm s.tables.channels[k] { r with sample := .stopped, errors := 0 }) s.channels

/-- A segment after RESTART (R119, R135). -/
def SegRt.restarted (r : SegRt) : SegRt := { r.abandoned with overruns := 0 }

/-- Everything RESTART re-initialises, with every table, the return queue and the tag counter kept
(R27, R72, R82, R104, R119, R140, R147, R149, R153, R155, R162, R183). -/
def restarted (s : State) : State :=
  { pending := s.pending, now := s.now, powered := s.powered, resetHeld := s.resetHeld
    tables := s.tables
    points := s.tables.points.map freshPoint
    trips := failTrips s.tables
    ports := ⟨s.ports.spreader.restarted, s.ports.cab.restarted, s.ports.drive.restarted⟩
    segs := ⟨s.segs.spreader.restarted, s.segs.cab.restarted⟩
    returns := s.returns
    tag := s.tag
    inputs := restartInputs s
    channels := restartChannels s }

/-- The re-initialisation of RESTART (R135, R147, R183). -/
def restartPart (s : State) : State :=
  if s.mode = .config then restarted s else sendSafe (restarted (dropForwards s))

/-- The power-on state, with the commands that wait, the clock and the levels on the pins (R27, R149,
R162, R183). -/
def powerOnState (s : State) : State :=
  { pending := s.pending, now := s.now
    inputs := restartInputs s
    channels := s.channels.map fun r => arm {} { r with sample := .stopped, errors := 0 } }

end Sys2Proof.Machine
end

