-- ==== Sys2Proof/Machine/Service.lean ====
section
/-! DEFINITION. The Drive Service (R171 to R175): MANAGE commands as octets, results, answers, and the
telegrams being served and waiting. -/

namespace Sys2Proof.Machine

/-! ## MANAGE commands as octets (R175) -/

/-- The command code (R175). -/
def Command.code : Command → Octet
  | .readEntry .. => 1 | .writeEntry .. => 2 | .clearTable _ => 3 | .start => 4 | .stop => 5
  | .restart => 6 | .force .. => 7 | .release _ => 8 | .releaseAll => 9 | .bypass .. => 10
  | .cancelBypass _ => 11 | .setMask .. => 12 | .setAttentionMask _ => 13 | .clearAttention _ => 14
  | .readStatus _ => 15 | .resetCounters => 16

/-- The operands' octets (R1, R175). -/
def Command.operands : Command → List Octet
  | .readEntry t e => t :: octets16 e
  | .writeEntry t e image => t :: octets16 e ++ image
  | .clearTable t => [t]
  | .start | .stop | .restart | .releaseAll | .resetCounters => []
  | .force p v => octets16 p ++ octets32 v
  | .release p => octets16 p
  | .bypass e n => e :: octets16 n
  | .cancelBypass e => [e]
  | .setMask n m => n :: octets16 m
  | .setAttentionMask m => octets16 m
  | .clearAttention m => octets16 m
  | .readStatus part => [part]

/-- The payload of the MANAGE that carries a command (R171). -/
def Command.payload (c : Command) : List Octet := c.code :: c.operands

/-- The results of a MANAGE (R171), with the data of each. -/
inductive Result where
  | done (data : List Octet)
  | refusedMode
  | noSuchTable
  | noSuchEntry
  | badField (field : Nat)
  | badLength
  | checkFailed (failure : Failure)
  | limitReached
  | notAllowed
  | unknownCommand
  deriving DecidableEq, Repr

/-- The result code and the data of a result (R171). -/
def Result.octets : Result → List Octet
  | .done data => 0 :: data
  | .refusedMode => [1]
  | .noSuchTable => [2]
  | .noSuchEntry => [3]
  | .badField k => [4, BitVec.ofNat 8 k]
  | .badLength => [5]
  | .checkFailed f =>
    [6, BitVec.ofNat 8 f.table] ++ octets16 (BitVec.ofNat 16 f.entry) ++ [BitVec.ofNat 8 f.code]
  | .limitReached => [7]
  | .notAllowed => [8]
  | .unknownCommand => [9]

/-- A command of the operands, or BAD_LENGTH where their length is not the command's (R175). -/
def orBadLength : Option Command → Except Result Command
  | some c => .ok c
  | none => .error .badLength

/-- The command of a code with its operands (R175). -/
def parseOperands (code : Nat) (operands : List Octet) : Except Result Command :=
  match code with
  | 1 => orBadLength <| match operands with
    | [t, a, b] => some (.readEntry t (word16 a b))
    | _ => none
  | 2 => orBadLength <| match operands with
    | t :: a :: b :: image => some (.writeEntry t (word16 a b) image)
    | _ => none
  | 3 => orBadLength <| match operands with
    | [t] => some (.clearTable t)
    | _ => none
  | 4 => orBadLength <| if operands.isEmpty then some .start else none
  | 5 => orBadLength <| if operands.isEmpty then some .stop else none
  | 6 => orBadLength <| if operands.isEmpty then some .restart else none
  | 7 => orBadLength <| match operands with
    | [a, b, c, d, e, f] => some (.force (word16 a b) (word32 c d e f))
    | _ => none
  | 8 => orBadLength <| match operands with
    | [a, b] => some (.release (word16 a b))
    | _ => none
  | 9 => orBadLength <| if operands.isEmpty then some .releaseAll else none
  | 10 => orBadLength <| match operands with
    | [e, a, b] => some (.bypass e (word16 a b))
    | _ => none
  | 11 => orBadLength <| match operands with
    | [e] => some (.cancelBypass e)
    | _ => none
  | 12 => orBadLength <| match operands with
    | [n, a, b] => some (.setMask n (word16 a b))
    | _ => none
  | 13 => orBadLength <| match operands with
    | [a, b] => some (.setAttentionMask (word16 a b))
    | _ => none
  | 14 => orBadLength <| match operands with
    | [a, b] => some (.clearAttention (word16 a b))
    | _ => none
  | 15 => orBadLength <| match operands with
    | [part] => some (.readStatus part)
    | _ => none
  | 16 => orBadLength <| if operands.isEmpty then some .resetCounters else none
  | _ => .error .unknownCommand

/-- The code and the command of a MANAGE payload, or the result that refuses it (R171, R175). -/
def parseManage : List Octet → Octet × Except Result Command
  | [] => (0, .error .unknownCommand)
  | code :: operands => (code, parseOperands code.toNat operands)

/-- The commands carried out as management updates (R171, R175). -/
def Command.isUpdate : Command → Bool
  | .start | .stop | .force .. | .release _ | .releaseAll | .bypass .. | .cancelBypass _ => true
  | .readEntry .. | .writeEntry .. | .clearTable _ | .restart | .setMask .. | .setAttentionMask _
  | .clearAttention _ | .readStatus _ | .resetCounters => false

/-- The MANAGE telegram that carries a command. -/
def manageTelegram (seq : Seq) (c : Command) : DriveTelegram :=
  ⟨.manage, Config.junction, seq, c.payload⟩

/-! ## Answers -/

/-- An answer of the Drive Service: to the PLC address as it stands, with the sequence of the telegram
answered (R85, R171). -/
def answerTelegram (s : State) (kind : Kind) (seq : Seq) (payload : List Octet) : Telegram :=
  ⟨s.tables.global.plcAddress, Config.junction, kind, seq, payload⟩

/-- The telegram being served has its answer; it waits for the transmitter (R171). -/
def setAnswer (t : DriveTelegram) (answer : Telegram) (restarts : Bool) (s : State) : State :=
  { s with service := some ⟨t, .answered answer restarts⟩ }

/-- A telegram becomes the one being served (R171). A MANAGE that its own form refuses is answered; a
management update makes its request; every other telegram's work is a step of its own. -/
def openService (t : DriveTelegram) (s : State) : State :=
  match t.kind with
  | .exchange | .fetch | .forward => { s with service := some ⟨t, .toServe⟩ }
  | .manage =>
    match parseManage t.payload with
    | (code, .error result) =>
      setAnswer t (answerTelegram s .manageAnswer t.seq (code :: result.octets)) false s
    | (_, .ok c) =>
      if c.isUpdate then request (.manage c) { s with service := some ⟨t, .requested⟩ }
      else { s with service := some ⟨t, .toServe⟩ }

/-- The service of a telegram is over: the waiting telegram is served next (R171). -/
def serveWaiting (s : State) : State :=
  match s.waiting with
  | none => { s with service := none }
  | some t => openService t { s with service := none, waiting := none }

/-- An answer that waits goes to the Drive Port's transmitter when it is free, which ends its
telegram's service (R84, R171). The hand-over of a RESTART's answer is followed by the
re-initialisation (R183). -/
def tryHandOver (s : State) : State :=
  match s.service with
  | some ⟨_, .answered answer restarts⟩ =>
    if s.ports.drive.sending.isNone then
      let s := beginSend .drive ⟨answer, .answer⟩ s
      if restarts then restartPart s else serveWaiting s
    else s
  | some ⟨_, .toServe⟩ | some ⟨_, .requested⟩ | none => s

/-- The Drive Service takes a telegram: it is served, or waits, or is discarded (R171). -/
def takeDrive (t : DriveTelegram) (s : State) : State :=
  match s.service with
  | none => tryHandOver (openService t s)
  | some _ =>
    match s.waiting with
    | none => { s with waiting := some t }
    | some _ => s

/-- The row of a PLC's telegram that is not the one to serve: the Drive Port takes it if its receiver is
open, and while it sends the telegram is lost (R83; log entry 6). -/
def hearDrive (t : DriveTelegram) (s : State) : State :=
  if s.ports.drive.rxOpen then takeDrive t s else s

/-- The row of a PLC's telegram: `serve` where that telegram is the one being served and has come to
`stage`, or where none is served and the Drive Port takes it now; else the telegram waits, is discarded
or is lost (R83, R171; log entry 6). -/
def whenServed (t : DriveTelegram) (stage : ServiceStage) (serve : State → State) (s : State) : State :=
  match s.service with
  | none => if s.ports.drive.rxOpen then serve (openService t s) else s
  | some v => if v.telegram = t ∧ v.stage = stage then serve s else hearDrive t s

/-- The step that serves a telegram which is answered at once. `act` gives the answer's kind and
payload and the state it leaves; the answer goes to the PLC address of before (R177). A telegram not
taken yet is taken first (log entry 6). -/
def serveAtOnce (t : DriveTelegram) (act : State → Kind × List Octet × State) (s : State) : State :=
  whenServed t .toServe (fun s =>
    let (kind, payload, s') := act s
    tryHandOver (setAnswer t (answerTelegram s kind t.seq payload) false s')) s

/-- The step that serves a MANAGE command which is answered at once. -/
def manageAtOnce (seq : Seq) (c : Command) (act : State → Result × State) (s : State) : State :=
  serveAtOnce (manageTelegram seq c) (fun s =>
    let (result, s') := act s
    (.manageAnswer, c.code :: result.octets, s')) s

/-- The telegram whose update has been granted is answered (R171, R172). -/
def answerGranted (kind : Kind) (payload : List Octet) (s : State) : State :=
  match s.service with
  | some ⟨t, .requested⟩ =>
    tryHandOver (setAnswer t (answerTelegram s kind t.seq payload) false s)
  | some ⟨_, .toServe⟩ | some ⟨_, .answered _ _⟩ | none => s

/-- The step that grants a management update. A telegram not taken yet is taken first (log entry 6);
the grant is made when the request is at the head of the arbiter's list (R18). -/
def manageGranted (seq : Seq) (c : Command) (act : State → Result × State) (s : State) : State :=
  whenServed (manageTelegram seq c) .requested (grant fun r =>
    if r = .manage c then
      some fun s =>
        let (result, s') := act s
        answerGranted .manageAnswer (c.code :: result.octets) s'
    else none) s

/-- A CHECK_FAILED answer sets CHECK_REFUSED (R171). -/
def refuseCheck (f : Failure) (s : State) : Result × State := (.checkFailed f, setFlag .checkRefused s)

/-! ## EXCHANGE (R172, R173) -/

/-- A list's points, from entry 0 up to the first unused entry (R178). -/
def listed {n : Nat} (list : Vector (Option PointNo) n) : List PointNo :=
  (list.toList.takeWhile Option.isSome).filterMap id

/-- The EXCHANGE is taken (R172). -/
def takesExchange (s : State) (payload : List Octet) : Bool :=
  decide (s.mode ≠ .config) &&
    decide (payload.length = 2 * (listed s.tables.writeList).length)

/-- How many enabled nodes are not ONLINE (R173). -/
def notOnline (s : State) : Nat :=
  ((List.finRange 16).filter fun n =>
    s.tables.nodes[n].enabled && decide (s.nodes[n].link ≠ .online)).length

/-- The EXCHANGE ANSWER's payload (R173). -/
def exchangeAnswer (s : State) (taken : Bool) : List Octet :=
  [s.mode.code,
    octetOfBool s.attentionSummary ||| (octetOfBool taken <<< 1) ||| (octetOfBool s.plcSilent <<< 2),
    BitVec.ofNat 8 s.returns.length, BitVec.ofNat 8 (notOnline s)] ++
    (listed s.tables.emitList).flatMap fun p =>
      s.points[p].quality.code :: octets32 s.points[p].value

/-- The values of a taken EXCHANGE reach the PLC points in write list order (R13, R30). -/
def writeValues (values : List Word16) (s : State) : State :=
  ((listed s.tables.writeList).zip values).foldl (fun s e =>
    updPoint e.1 (intake s.tables.points[e.1] (s.isForced e.1) (.word e.2)) s) s

/-! ## Tables (R133, R176) -/

/-- The runtime that belongs to entry `e` of table `t` after a write or a clear (R5, R46, R72, R104,
R149, R153, R162). -/
def initEntry (t e : Nat) (s : State) : State :=
  match t with
  | 1 =>
    { s with points := updAll (fun p rt =>
        if p.val = e then freshPoint s.tables.points[p] else rt) s.points }
  | 2 => { s with nodes := s.nodes.setIfInBounds e {} }
  | 3 =>
    { s with trips := updAll (fun d b =>
        if d.val = e then s.tables.derived[d].failValue else b) s.trips }
  | 4 => { s with interlocks := s.interlocks.setIfInBounds e {} }
  | 8 =>
    { s with outputs := updAll (fun o rt => if o.val = e then rt.quieted else rt) s.outputs }
  | 10 =>
    { s with channels := updAll (fun k r =>
        if k.val = e then arm s.tables.channels[k] { r with sample := .stopped, errors := 0 }
        else r) s.channels }
  | _ => s

/-- The runtime that belongs to every entry of table `t` after a clear (R176). -/
def initTable (t : Nat) (s : State) : State :=
  match t with
  | 1 => { s with points := s.tables.points.map freshPoint }
  | 2 => { s with nodes := Vector.replicate 16 {} }
  | 3 => { s with trips := failTrips s.tables }
  | 4 => { s with interlocks := Vector.replicate 48 {} }
  | 8 => quietOutputs s
  | 10 => { s with channels := restartChannels s }
  | _ => s

/-- READ ENTRY (R176). -/
def readEntryResult (s : State) (table : Octet) (entry : Word16) : Result :=
  if table.toNat < 1 ∨ 11 < table.toNat then .noSuchTable
  else match s.tables.image table.toNat entry.toNat with
    | none => .noSuchEntry
    | some image => .done (table :: octets16 entry ++ image)

/-- WRITE ENTRY (R176): mode, table, entry, length, then each field in order. -/
def writeEntry (table : Octet) (entry : Word16) (image : List Octet) (s : State) :
    Result × State :=
  let t := table.toNat
  let e := entry.toNat
  if s.mode ≠ .config then (.refusedMode, s)
  else if t < 1 ∨ 11 < t then (.noSuchTable, s)
  else if entriesOf t ≤ e then (.noSuchEntry, s)
  else if image.length ≠ imageLength (fieldsOf t) then (.badLength, s)
  else
    let values := readImage (fieldsOf t) image
    match firstBadField 1 (fieldsOf t) values with
    | some k => (.badField k, s)
    | none => (.done [], initEntry t e { s with tables := s.tables.setValues t e values })

/-- CLEAR TABLE (R176). The mode is judged before the table id, as R176 orders it for WRITE ENTRY: DEDUCED
(log entry 26, unsafe), since R176 gives no order for this command. -/
def clearTable (table : Octet) (s : State) : Result × State :=
  let t := table.toNat
  if s.mode ≠ .config then (.refusedMode, s)
  else if t < 1 ∨ 11 < t then (.noSuchTable, s)
  else (.done [], initTable t { s with tables := s.tables.cleared t })

/-- The first NODE point on a node, in ascending order, that fails the hold gap with a mask (R133). -/
def holdGapFailure (s : State) (n : NodeNo) (mask : Word16) : Option PointNo :=
  (indicesOf (fun c : PointCfg =>
    ofNode n c && !meetsHoldGap s.tables.global mask c.holdLimit) s.tables.points).head?

/-- SET MASK (R133). -/
def setMask (node : Octet) (mask : Word16) (s : State) : Result × State :=
  if h : node.toNat < 16 then
    let n : NodeNo := ⟨node.toNat, h⟩
    if s.tables.nodes[n].enabled ∧ !hasSlot s.tables.global mask then
      refuseCheck ⟨2, n.val, 8⟩ s
    else match holdGapFailure s n mask with
      | some p => refuseCheck ⟨1, p.val, 5⟩ s
      | none =>
        (.done [],
          { s with tables := { s.tables with
              nodes := updOne s.tables.nodes n fun c => { c with pollMask := mask } } })
  else (.noSuchEntry, s)

/-! ## Status and counters (R185) -/

/-- The time left on a timer in whole seconds, rounded up. -/
def secondsLeft (now : Nat) (t : Timer) : Nat :=
  (t.left now + (Config.second - 1)) / Config.second

/-- The octets of counters in order. -/
def counterOctets (cs : List Word16) : List Octet := cs.flatMap octets16

/-- The counters of node entries `first` to `first + 7` in order (R117). -/
def nodeCounterOctets (s : State) (first : Nat) : List Octet :=
  ((s.nodes.toList.drop first).take 8).flatMap fun r => counterOctets r.counters.toList

/-- Part 0 of READ STATUS (R185). -/
def statusPart0 (s : State) : List Octet :=
  [s.mode.code] ++ octets16 (s.attention.setWidth 16) ++ octets16 (s.mask.setWidth 16) ++
    [octetOfBool s.plcSilent ||| (octetOfBool s.channels[0].homed <<< 1)] ++
    s.nodes.toList.map (fun r => r.link.code) ++
    [BitVec.ofNat 8 s.bypasses.length] ++
    s.bypasses.flatMap (fun b =>
      BitVec.ofNat 8 b.entry.val :: octets16 (BitVec.ofNat 16 (secondsLeft s.now b.timer))) ++
    [BitVec.ofNat 8 s.forced.length] ++
    s.forced.flatMap (fun p =>
      octets16 (BitVec.ofNat 16 p.val) ++ octets32 s.points[p].forcedValue) ++
    octets16 s.segs.spreader.overruns ++ octets16 s.segs.cab.overruns ++
    counterOctets (s.channels.toList.map ChannelRt.errors)

/-- The content of a part of READ STATUS; none above 4 (R185). -/
def statusContent (s : State) (part : Nat) : Option (List Octet) :=
  match part with
  | 0 => some (statusPart0 s)
  | 1 =>
    some (counterOctets (s.ports.spreader.counters.toList ++ s.ports.cab.counters.toList ++
      s.ports.drive.counters.toList))
  | 2 => some (nodeCounterOctets s 0)
  | 3 => some (nodeCounterOctets s 8)
  | 4 =>
    some (counterOctets (s.inputs.toList.map InputRt.changes ++ s.outputs.toList.map OutputRt.ignored))
  | _ => none

/-- READ STATUS (R185). -/
def readStatusResult (s : State) (part : Octet) : Result :=
  match statusContent s part.toNat with
  | none => .badField 1
  | some content => .done (part :: content)

/-- An exchange with the node is in flight on some segment (R117, R124). -/
def exchangeInFlight (s : State) (n : NodeNo) : Bool :=
  decide (s.segs.spreader.work = .exchange n true) || decide (s.segs.cab.work = .exchange n true)

/-- A node's counters after RESET COUNTERS (R117). -/
def resetNodeCounters (inFlight : Bool) : Vector Word16 8 :=
  (Vector.replicate 8 0).set 0 (if inFlight then 1 else 0)

/-- RESET COUNTERS (R117, R185). -/
def resetEveryCounter (s : State) : State :=
  let port (r : PortRt) : PortRt := { r with counters := Vector.replicate 9 0 }
  let seg (r : SegRt) : SegRt := { r with overruns := 0 }
  { s with
    ports := ⟨port s.ports.spreader, port s.ports.cab, port s.ports.drive⟩
    nodes := updAll (fun n r =>
      { r with counters := resetNodeCounters (exchangeInFlight s n) }) s.nodes
    segs := ⟨seg s.segs.spreader, seg s.segs.cab⟩
    inputs := s.inputs.map fun r => { r with changes := 0 }
    outputs := s.outputs.map fun r => { r with ignored := 0 }
    channels := s.channels.map fun r => { r with errors := 0 } }

end Sys2Proof.Machine
end

