-- ==== Sys2Proof/Machine/Expiries.lean ====
section
/-! DEFINITION. Expiries of the part's timers. An expiry moves the clock to the instant at which the
timer runs out; where the timer does not run there is no expiry, and the state stands (log entries 2
and 9). -/

namespace Sys2Proof.Machine

/-- The expiry of a timer: `f` acts at its instant. -/
def atExpiry (t : Timer) (f : Nat → State → State) (s : State) : State :=
  match t.due? with
  | none => s
  | some due => f due (clockTo due s)

/-- CYCLE_START (R120, R121, R129). -/
def execCycleStart (s : State) : Host.Outcome State Fault Refusal :=
  whenAlive s <| atExpiry s.cycleTimer fun due s =>
    cycleStartBoth { s with
      cycleTimer := .running (due + cyclePeriodUnits s)
      slot := (s.slot + 1) % s.tables.global.patternPeriod }

/-- REPLY_WINDOW_EXPIRY (R126). -/
def execReplyWindowExpiry (g : Seg) (s : State) : Host.Outcome State Fault Refusal :=
  whenAlive s <| atExpiry (s.segs.get g).window fun due => windowClose g due

/-- TURNAROUND_EXPIRY (R127). -/
def execTurnaroundExpiry (g : Seg) (s : State) : Host.Outcome State Fault Refusal :=
  whenAlive s <| atExpiry (s.segs.get g).turnaround fun _ s =>
    let s := updSeg g (fun r => { r with turnaround := .stopped }) s
    if (s.segs.get g).work = .turnaround then selectWork g s else s

/-- ANSWER_WINDOW_EXPIRY (R144). -/
def execAnswerWindowExpiry (g : Seg) (s : State) : Host.Outcome State Fault Refusal :=
  whenAlive s <| atExpiry (s.segs.get g).answerWindow fun _ => answerClose g

/-- HOLD_TIMER_EXPIRY (R9, R10): the timer counts as running until its request is granted. -/
def execHoldTimerExpiry (p : PointNo) (s : State) : Host.Outcome State Fault Refusal :=
  whenAlive s <| atExpiry s.points[p].hold fun due s =>
    request (.holdExpiry p due) (updPoint p (fun rt => { rt with hold := .expired due }) s)

/-- DRIVE_SILENCE_EXPIRY (R174). -/
def execDriveSilenceExpiry (s : State) : Host.Outcome State Fault Refusal :=
  whenAlive s <| atExpiry s.silenceTimer fun due s =>
    request (.driveSilence due) { s with silenceTimer := .stopped }

/-- TERM_HOLD_EXPIRY (R69). -/
def execTermHoldExpiry (e : InterlockNo) (k : TermNo) (s : State) :
    Host.Outcome State Fault Refusal :=
  whenAlive s <| atExpiry s.interlocks[e].terms[k].timer fun due s =>
    request (.termHold e k due) { s with
      interlocks := updOne s.interlocks e fun rt =>
        { rt with terms := updOne rt.terms k fun t => { t with timer := .expired due } } }

/-- The timer of an entry's bypass record; stopped where it has none (R76). -/
def bypassTimer (s : State) (e : InterlockNo) : Timer :=
  ((s.bypasses.find? fun b => b.entry == e).map Bypass.timer).getD .stopped

/-- BYPASS_TIMER_EXPIRY (R79). -/
def execBypassTimerExpiry (e : InterlockNo) (s : State) : Host.Outcome State Fault Refusal :=
  whenAlive s <| atExpiry (bypassTimer s e) fun due s =>
    request (.bypassExpiry e due) { s with
      bypasses := s.bypasses.map fun b =>
        if b.entry = e then { b with timer := .expired due } else b }

/-- START_TIMER_EXPIRY (R181). -/
def execStartTimerExpiry (s : State) : Host.Outcome State Fault Refusal :=
  whenAlive s <| atExpiry s.startTimer fun due s =>
    request (.startTimer due) { s with startTimer := .stopped }

/-- INPUT_DEBOUNCE_EXPIRY (R150, R151). -/
def execInputDebounceExpiry (i : InputNo) (s : State) : Host.Outcome State Fault Refusal :=
  whenAlive s <| atExpiry s.inputs[i].pin.timer fun _ s =>
    let (pin, accepted) := debounceExpiry s.inputs[i].pin
    let s := updInput i (fun rt => { rt with pin }) s
    if accepted then levelAccepted i s else s

/-- LAMP_STEP_EXPIRY (R154, R155). -/
def execLampStepExpiry (s : State) : Host.Outcome State Fault Refusal :=
  whenAlive s <| atExpiry s.lampTimer fun due s =>
    let s := { s with
      lampIndex := (s.lampIndex + 1) % s.tables.global.lampLength
      lampTimer := .running (due + lampStepTime s) }
    { s with
      outputs := updAll (fun o rt =>
        let c := s.tables.outputs[o]
        if c.mode = .pattern then { rt with active := patternDrive s c rt.last } else rt) s.outputs }

/-- PERIOD_START (R156). -/
def execPeriodStart (o : OutputNo) (s : State) : Host.Outcome State Fault Refusal :=
  whenAlive s <| atExpiry s.outputs[o].period fun due s =>
    updOutput o (fun rt => { periodBegin s.now rt with period := .running (due + tenMs) }) s

/-- ON_TIMER_EXPIRY (R156). -/
def execOnTimerExpiry (o : OutputNo) (s : State) : Host.Outcome State Fault Refusal :=
  whenAlive s <| atExpiry s.outputs[o].onTimer fun _ s =>
    updOutput o (fun rt => { rt with active := false, onTimer := .stopped }) s

/-- The phase timer of a train. -/
def Train.timer : Train → Timer
  | .idle | .paused .. => .stopped
  | .running _ t _ => t

/-- PHASE_TIMER_EXPIRY (R157). -/
def execPhaseTimerExpiry (o : OutputNo) (s : State) : Host.Outcome State Fault Refusal :=
  whenAlive s <| atExpiry s.outputs[o].train.timer fun _ s =>
    updOutput o (phaseExpiry s.now s.tables.outputs[o]) s

/-- CAPTURE_DEBOUNCE_EXPIRY (R163): each named input whose timer runs accepts its line level. -/
def execCaptureDebounceExpiry (k : ChannelNo) (inputs : List CapInput) (s : State) :
    Host.Outcome State Fault Refusal :=
  whenAlive s fun s =>
    let dues := inputs.filterMap fun i => (s.channels[k].input i).timer.due?
    inputsChange k (inputs.map fun i => (i, debounceExpiry)) (dues.foldl (fun s d => clockTo d s) s)

/-- CHANNEL_TIMEOUT_EXPIRY (R166, R167). -/
def execChannelTimeoutExpiry (k : ChannelNo) (s : State) : Host.Outcome State Fault Refusal :=
  whenAlive s <| atExpiry s.channels[k].timeout fun _ =>
    updChannel k fun r => { r with timed := 0, stage := .waiting, timeout := .stopped }

/-- SAMPLE_TIMER_EXPIRY (R164). -/
def execSampleTimerExpiry (k : ChannelNo) (s : State) : Host.Outcome State Fault Refusal :=
  whenAlive s <| atExpiry s.channels[k].sample fun due s =>
    let c := s.tables.channels[k]
    request (.sample k (measurement c s.channels[k]) due)
      (updChannel k (fun r => { r with sample := .running (due + sampleInterval c) }) s)

end Sys2Proof.Machine
end

