-- ==== Sys2Proof/Machine/LineEvents.lean ====
section
/-! DEFINITION. Events on the three pairs: fences, octets, the ends of receptions and of transmissions
(R83, R84, R88, R89, R95 to R100). -/

namespace Sys2Proof.Machine

/-- A reception has ended on a port with an outcome other than a telegram the Drive Port takes: it is
counted and flagged, and on a segment's port the owner of an awaited reply is told (R98 to R100). -/
def receptionEnds (p : Port) (o : RxOutcome) (h : Option HandOver) (s : State) : State :=
  let s := giveOutcome p o s
  match segOf p, h with
  | some g, some h => segReception g h s
  | _, _ => s

/-- A good telegram on the Drive Port (R97). -/
def goodOnDrive (t : Telegram) (s : State) : State :=
  match judgeDrive s t with
  | some d => takeDrive d (giveOutcome .drive .taken s)
  | none => giveOutcome .drive .notForUs s

/-- A good telegram on a segment's port (R91, R98). With nothing awaited no owner is told. -/
def goodOnSegment (p : Port) (t : Telegram) (s : State) : State :=
  match judgeNode (s.ports.get p).awaited t with
  | .taken => receptionEnds p .taken (some (.taken t)) s
  | .notForUs => receptionEnds p .notForUs (some .notForUs) s
  | o => receptionEnds p o none s

/-- A telegram ended by a fence, with the content collected (R96 to R98). -/
def telegramEnds (p : Port) (content : List Octet) (s : State) : State :=
  match classify content with
  | .error o => receptionEnds p o (some .fault) s
  | .ok t =>
    match p with
    | .drive => goodOnDrive t s
    | .spreader | .cab => goodOnSegment p t s

/-- TELEGRAM_END: a fence in RECEIVING (R88, R96). The fence opens the next reception. -/
def execTelegramEnd (p : Port) (s : State) : Host.Outcome State Fault Refusal :=
  whenAlive s fun s =>
    let r := s.ports.get p
    if r.rx = .receiving then
      telegramEnds p r.content (updPort p PortRt.emptied s)
    else s

/-- RECEPTION_BROKEN: quiet or a break ends a reception in progress (R88, R95). -/
def execReceptionBroken (p : Port) (s : State) : Host.Outcome State Fault Refusal :=
  whenAlive s fun s =>
    if (s.ports.get p).inProgress then
      receptionEnds p .broken (some .fault) (updPort p PortRt.sought s)
    else s

/-- RECEPTION_OVERLONG: the 257th octet of a reception (R88, R95). -/
def execReceptionOverlong (p : Port) (s : State) : Host.Outcome State Fault Refusal :=
  whenAlive s fun s =>
    if (s.ports.get p).rx = .receiving then
      receptionEnds p .overlong (some .fault) (updPort p PortRt.sought s)
    else s

/-- OPENING_FENCE: a fence in SEEKING (R88). -/
def execOpeningFence (p : Port) (s : State) : Host.Outcome State Fault Refusal :=
  whenAlive s (updPort p PortRt.opened)

/-- CONTENT_OCTET_COLLECTED (R89). A reception that holds 256 octets has no room: that octet is its
257th, and it ends OVERLONG (R88). -/
def execContentOctetCollected (p : Port) (octet : Octet) (s : State) :
    Host.Outcome State Fault Refusal :=
  whenAlive s fun s =>
    let r := s.ports.get p
    if r.rx = .receiving then
      if r.content.length < Config.maxContent then
        updPort p (fun r => r.collectOctet octet) s
      else receptionEnds p .overlong (some .fault) (updPort p PortRt.sought s)
    else s

/-- RECEPTION_ENDED_WITHOUT_OUTCOME: quiet or a break in a reception that holds no octet (R88, R89). -/
def execReceptionEndedWithoutOutcome (p : Port) (s : State) : Host.Outcome State Fault Refusal :=
  whenAlive s fun s =>
    if (s.ports.get p).content.isEmpty then updPort p PortRt.sought s else s

/-- END_OF_TRANSMISSION (R83, R84): the receiver opens, the giving block is told, and the next
telegram that waits for the transmitter is handed over. -/
def execEndOfTransmission (p : Port) (s : State) : Host.Outcome State Fault Refusal :=
  whenAlive s fun s =>
    match (s.ports.get p).sending with
    | none => s
    | some o =>
      let s := updPort p PortRt.released s
      match segOf p with
      | none => tryHandOver s
      | some g => sendNext g (sentOnSegment g o.owner s)

end Sys2Proof.Machine
end

