-- ==== Sys2Proof/Machine/Pins.lean ====
section
/-! DEFINITION. Events on the pins: levels of local inputs and capture inputs, the reset line and the
supply (R84, R149, R150, R163, R183). -/

namespace Sys2Proof.Machine

/-- INPUT_LEVEL_CHANGE (R150). While the part is held in reset or has no supply the pin is followed
without debounce (R149, R183; log entry 3). -/
def execInputLevelChange (i : InputNo) (level : Bool) (time : Nat) (s : State) :
    Host.Outcome State Fault Refusal :=
  let s := clockTo time s
  if s.alive then
    let debounce := s.tables.inputs[i].debounce.toNat * Config.millisecond
    let (pin, accepted) := lineChange s.now debounce level s.inputs[i].pin
    let s := updInput i (fun rt => { rt with pin }) s
    .next (if accepted then levelAccepted i s else s)
  else .next (updInput i (fun rt => { rt with pin := followPin level }) s)

/-- CAPTURE_LEVEL_CHANGE (R163). While the part is held in reset or has no supply the pins are
followed, as arming takes them (R162, R183; log entry 3). -/
def execCaptureLevelChange (k : ChannelNo) (levels : List (CapInput × Bool)) (time : Nat)
    (s : State) : Host.Outcome State Fault Refusal :=
  let s := clockTo time s
  if s.alive then
    let debounce := s.tables.channels[k].debounce.toNat * Config.microsecond
    .next (inputsChange k (levels.map fun e => (e.1, lineChange s.now debounce e.2)) s)
  else
    .next (updChannel k (fun r =>
      arm s.tables.channels[k]
        (levels.foldl
          (fun r e => if hasInput k e.1 then r.setInput e.1 (followPin e.2) else r) r)) s)

/-- RESET_LINE (R84, R183): power-on contents, held while the line is active. -/
def execResetLine (s : State) : Host.Outcome State Fault Refusal :=
  .next { powerOnState s with powered := s.powered, resetHeld := true }

/-- RESET_LINE_RELEASE (R183): the part leaves the held state in CONFIG. -/
def execResetLineRelease (s : State) : Host.Outcome State Fault Refusal :=
  .next { s with resetHeld := false }

/-- POWER_ON (R183): as a release of the reset line, at power-on contents. -/
def execPowerOn (s : State) : Host.Outcome State Fault Refusal := .next (powerOnState s)

/-- POWER_LOSS (R84): sending stops, the pairs are at rest, all state is lost. The contents of a part
without supply are those it will power on with (log entry 4). -/
def execPowerLoss (s : State) : Host.Outcome State Fault Refusal :=
  .next { powerOnState s with powered := false, resetHeld := s.resetHeld }

end Sys2Proof.Machine
end

