-- ==== Sys2Proof/Machine/PlcCommands.lean ====
section
/-! DEFINITION. The PLC's telegrams: EXCHANGE, the MANAGE commands, FETCH and FORWARD. A command that
is a management update is carried out at its grant (R18, R175). -/

namespace Sys2Proof.Machine

/-! ## EXCHANGE, FETCH, FORWARD -/

/-- EXCHANGE (R172, R173). A taken one requests its update and is answered after the grant; any other
is answered at once. -/
def execExchange (seq : Seq) (payload : List Octet) (s : State) : Host.Outcome State Fault Refusal :=
  let t : DriveTelegram := ⟨.exchange, Config.junction, seq, payload⟩
  let serve (s : State) : State :=
    if takesExchange s payload then
      request (.exchange (words16 payload)) { s with service := some ⟨t, .requested⟩ }
    else
      tryHandOver
        (setAnswer t (answerTelegram s .exchangeAnswer seq (exchangeAnswer s false)) false s)
  whenAlive s (whenServed t .toServe serve)

/-- FETCH (R146): the oldest record is removed and carried in the answer. -/
def execFetch (seq : Seq) (payload : List Octet) (s : State) : Host.Outcome State Fault Refusal :=
  whenAlive s <| serveAtOnce ⟨.fetch, Config.junction, seq, payload⟩ fun s =>
    (.fetchAnswer, fetchPayload s.returns.head?, { s with returns := s.returns.drop 1 })

/-- FORWARD (R139): decided at once, answered with a FORWARD ACK. A FORWARD to 0 is not taken (R97). -/
def execForward (seq : Seq) (dest : Addr) (payload : List Octet) (s : State) :
    Host.Outcome State Fault Refusal :=
  whenAlive s fun s =>
    if dest = 0 then s
    else serveAtOnce ⟨.forward, dest, seq, payload⟩ (fun s =>
      let (outcome, s') := decideForward dest payload s
      (.forwardAck, outcome.payload, s')) s

/-! ## MANAGE commands answered at once -/

/-- READ ENTRY (R176). -/
def execReadEntry (seq : Seq) (table : Octet) (entry : Word16) (s : State) :
    Host.Outcome State Fault Refusal :=
  whenAlive s <| manageAtOnce seq (.readEntry table entry) fun s => (readEntryResult s table entry, s)

/-- WRITE ENTRY (R176). -/
def execWriteEntry (seq : Seq) (table : Octet) (entry : Word16) (image : List Octet) (s : State) :
    Host.Outcome State Fault Refusal :=
  whenAlive s <| manageAtOnce seq (.writeEntry table entry image) (writeEntry table entry image)

/-- CLEAR TABLE (R176). -/
def execClearTable (seq : Seq) (table : Octet) (s : State) : Host.Outcome State Fault Refusal :=
  whenAlive s <| manageAtOnce seq (.clearTable table) (clearTable table)

/-- RESTART (R183): the DONE answer is handed over first, and the hand-over is followed by the
re-initialisation. -/
def execRestart (seq : Seq) (s : State) : Host.Outcome State Fault Refusal :=
  let t := manageTelegram seq .restart
  let serve (s : State) : State :=
    let answer := answerTelegram s .manageAnswer seq (Command.restart.code :: (Result.done []).octets)
    tryHandOver (setAnswer t answer true s)
  whenAlive s (whenServed t .toServe serve)

/-- SET MASK (R133). -/
def execSetMask (seq : Seq) (node : Octet) (mask : Word16) (s : State) :
    Host.Outcome State Fault Refusal :=
  whenAlive s <| manageAtOnce seq (.setMask node mask) (setMask node mask)

/-- SET ATTENTION MASK (R184): bits 12 to 15 are not read. -/
def execSetAttentionMask (seq : Seq) (mask : Word16) (s : State) :
    Host.Outcome State Fault Refusal :=
  whenAlive s <| manageAtOnce seq (.setAttentionMask mask) fun s =>
    (.done [], { s with mask := mask.setWidth 12 })

/-- CLEAR ATTENTION (R184): bits 12 to 15 are not read. -/
def execClearAttention (seq : Seq) (flags : Word16) (s : State) : Host.Outcome State Fault Refusal :=
  whenAlive s <| manageAtOnce seq (.clearAttention flags) fun s =>
    (.done [], { s with attention := s.attention &&& ~~~(flags.setWidth 12) })

/-- READ STATUS (R185). -/
def execReadStatus (seq : Seq) (part : Octet) (s : State) : Host.Outcome State Fault Refusal :=
  whenAlive s <| manageAtOnce seq (.readStatus part) fun s => (readStatusResult s part, s)

/-- RESET COUNTERS (R117, R185). -/
def execResetCounters (seq : Seq) (s : State) : Host.Outcome State Fault Refusal :=
  whenAlive s <| manageAtOnce seq .resetCounters fun s => (.done [], resetEveryCounter s)

/-! ## MANAGE commands carried out as management updates -/

/-- START at its grant (R179, R180). -/
def execStart (seq : Seq) (s : State) : Host.Outcome State Fault Refusal :=
  whenAlive s <| manageGranted seq .start fun s =>
    if s.mode ≠ .config then (.refusedMode, s)
    else match validate s.tables with
      | some f => refuseCheck f s
      | none => (.done [], startPart s)

/-- STOP at its grant (R26, R182). -/
def execStop (seq : Seq) (s : State) : Host.Outcome State Fault Refusal :=
  whenAlive s <| manageGranted seq .stop fun s =>
    if s.mode = .config then (.refusedMode, s) else (.done [], stopPart s)

/-- The withheld intake that an accepted FORCE leaves (R21). -/
def forcedWithheld (s : State) (p : PointNo) (c : PointCfg) : Withheld :=
  match c.source with
  | .line => .fresh (.bit (acceptedLevel s c))
  | .channel => .fresh (.measure (presentMeasurement s c))
  | .state => .fresh (.bit (presentState s c))
  | .node | .plc => if s.isForced p then s.points[p].withheld else .absent
  | .unused | .derived | .feed => s.points[p].withheld

/-- A FORCE answered DONE (R21), with steps 2 to 4. A CNT point is not clamped. -/
def forcePoint (p : PointNo) (value : Word32) (before : State) : State :=
  let c := before.tables.points[p]
  let v := (c.clamp value.toInt).1
  let withheld := forcedWithheld before p c
  let s := updPoint p
    (fun rt => { rt with value := v, quality := .forced, forcedValue := v, withheld }) before
  settle before []
    { s with forced := if before.isForced p then before.forced else before.forced ++ [p] }

/-- FORCE at its grant (R21). -/
def execForce (seq : Seq) (point : Word16) (value : Word32) (s : State) :
    Host.Outcome State Fault Refusal :=
  whenAlive s <| manageGranted seq (.force point value) fun s =>
    if s.mode = .config then (.refusedMode, s)
    else if h : point.toNat < 384 then
      let p : PointNo := ⟨point.toNat, h⟩
      match s.tables.points[p].source with
      | .unused | .feed => (.notAllowed, s)
      | .node | .plc | .line | .channel | .state | .derived =>
        if !s.isForced p ∧ Config.maxForced ≤ s.forced.length then (.limitReached, s)
        else (.done [], forcePoint p value s)
    else (.noSuchEntry, s)

/-- RELEASE at its grant (R23). -/
def execRelease (seq : Seq) (point : Word16) (s : State) : Host.Outcome State Fault Refusal :=
  whenAlive s <| manageGranted seq (.release point) fun s =>
    if s.mode = .config then (.refusedMode, s)
    else if h : point.toNat < 384 then
      let p : PointNo := ⟨point.toNat, h⟩
      (.done [], if s.isForced p then settle s [] (releasePoint p s) else s)
    else (.noSuchEntry, s)

/-- RELEASE ALL at its grant (R24). -/
def execReleaseAll (seq : Seq) (s : State) : Host.Outcome State Fault Refusal :=
  whenAlive s <| manageGranted seq .releaseAll fun s =>
    if s.mode = .config then (.refusedMode, s) else (.done [], settle s [] (releaseEvery s))

/-- BYPASS at its grant (R76, R77). -/
def execBypass (seq : Seq) (entry : Octet) (seconds : Word16) (s : State) :
    Host.Outcome State Fault Refusal :=
  whenAlive s <| manageGranted seq (.bypass entry seconds) fun s =>
    if s.mode ≠ .run then (.refusedMode, s)
    else if h : entry.toNat < 48 then
      let e : InterlockNo := ⟨entry.toNat, h⟩
      let c := s.tables.interlocks[e]
      if seconds.toNat < 1 ∨ 600 < seconds.toNat then (.badField 2, s)
      else if !c.bypassable ∨ c.mode = .unused then (.notAllowed, s)
      else if !s.isBypassed e ∧ Config.maxBypasses ≤ s.bypasses.length then (.limitReached, s)
      else (.done [], settle s [e] (beginBypass e seconds.toNat s))
    else (.noSuchEntry, s)

/-- CANCEL BYPASS at its grant (R78). -/
def execCancelBypass (seq : Seq) (entry : Octet) (s : State) : Host.Outcome State Fault Refusal :=
  whenAlive s <| manageGranted seq (.cancelBypass entry) fun s =>
    if s.mode ≠ .run then (.refusedMode, s)
    else if h : entry.toNat < 48 then
      let e : InterlockNo := ⟨entry.toNat, h⟩
      (.done [], if s.isBypassed e then settle s [e] (endBypass e s) else s)
    else (.noSuchEntry, s)

end Sys2Proof.Machine
end

