-- ==== Sys2Proof/Machine/Updates.lean ====
section
/-! DEFINITION. The other grants of the Image Update Arbiter (R10, R11, R13 to R15, R19, R69, R79,
R113 to R115, R164, R174, R181). A request granted in CONFIG is discarded (R19). -/

namespace Sys2Proof.Machine

/-- A request that has been taken off the list: discarded in CONFIG (R19), carried out otherwise. -/
def unlessConfig (f : State → State) (s : State) : State := if s.mode = .config then s else f s

/-- EXCHANGE_UPDATE (R13, R172): granted, or discarded in CONFIG and answered with values taken
clear. -/
def execExchangeUpdate (s : State) : Host.Outcome State Fault Refusal :=
  whenAlive s <| grant fun r =>
    match r with
    | .exchange values => some fun s =>
      if s.mode = .config then answerGranted .exchangeAnswer (exchangeAnswer s false) s
      else
        let written := writeValues values { s with
          silenceTimer := startTimer s (s.tables.global.silenceLimit * Config.millisecond)
          plcSilent := false
          exchangeTaken := s.exchangeTaken || decide (s.mode = .starting) }
        let settled := requestAndTest [] (settle s [] written)
        answerGranted .exchangeAnswer (exchangeAnswer settled true) settled
    | _ => none

/-- HOLD_EXPIRY_UPDATE (R10): discarded if the same timer has been restarted or cancelled. -/
def execHoldExpiryUpdate (s : State) : Host.Outcome State Fault Refusal :=
  whenAlive s <| grant fun r =>
    match r with
    | .holdExpiry p due => some <| unlessConfig fun s =>
      if s.points[p].hold = .expired due then
        let aged := updPoint p
          (fun rt => { applyStale s.tables.points[p] rt with hold := .stopped }) s
        let flagged := decide (aged.points[p].quality ≠ s.points[p].quality)
        settle s [] (setFlagIf flagged .pointStale aged)
      else s
    | _ => none

/-- REPLY_INTAKE_UPDATE (R8, R114). R181's test has been carried out when the node moved into ONLINE;
it is carried out again here, where it finds nothing new (log entry 11). -/
def execReplyIntakeUpdate (s : State) : Host.Outcome State Fault Refusal :=
  whenAlive s <| grant fun r =>
    match r with
    | .replyIntake n payload rise => some <| unlessConfig fun s =>
      let refreshed := refreshNode n payload s
      requestAndTest [] (settle s [] (if rise then writeState n true refreshed else refreshed))
    | _ => none

/-- NODE_LOSS_UPDATE (R11, R113): discarded if the loss is no longer pending. -/
def execNodeLossUpdate (s : State) : Host.Outcome State Fault Refusal :=
  whenAlive s <| grant fun r =>
    match r with
    | .nodeLoss n _ => some <| unlessConfig fun s =>
      if s.nodes[n].lossPending then
        let lost := updNode n
          (fun r => { r with link := .lost, misses := 0, goods := 0, lossPending := false }) s
        settle s [] (writeState n false (ageNode n (setFlag .nodeLost lost)))
      else s
    | _ => none

/-- DRIVE_SILENCE_UPDATE (R14, R174): carried out even if the timer has been restarted since. -/
def execDriveSilenceUpdate (s : State) : Host.Outcome State Fault Refusal :=
  whenAlive s <| grant fun r =>
    match r with
    | .driveSilence _ => some <| unlessConfig fun s =>
      let aged := staleWhere (fun c => decide (c.source = .plc)) s
      settle s [] (setFlag .plcSilent { aged with plcSilent := true })
    | _ => none

/-- TERM_HOLD_UPDATE (R69): discarded if the term has left TIMING on that run of its timer. -/
def execTermHoldUpdate (s : State) : Host.Outcome State Fault Refusal :=
  whenAlive s <| grant fun r =>
    match r with
    | .termHold e k due => some <| unlessConfig fun s =>
      if s.interlocks[e].terms[k] = ⟨.timing, .expired due⟩ then
        settle s [e] { s with
          interlocks := updOne s.interlocks e fun rt =>
            { rt with terms := rt.terms.set k ⟨.held, .stopped⟩ } }
      else s
    | _ => none

/-- BYPASS_EXPIRY_UPDATE (R79): discarded if the record is gone or its timer has been restarted. -/
def execBypassExpiryUpdate (s : State) : Host.Outcome State Fault Refusal :=
  whenAlive s <| grant fun r =>
    match r with
    | .bypassExpiry e due => some <| unlessConfig fun s =>
      if s.bypasses.contains ⟨e, .expired due⟩ then
        settle s [e] (setFlag .bypassEnded (endBypass e s))
      else s
    | _ => none

/-- ENTRY_TO_RUN (R181): the grant of the entry-to-RUN request, or of the start timer's expiry, which
also sets START_INCOMPLETE. Discarded unless the mode is STARTING. -/
def execEntryToRun (s : State) : Host.Outcome State Fault Refusal :=
  whenAlive s <| grant fun r =>
    match r with
    | .entryToRun => some fun s => if s.mode = .starting then enterRun s else s
    | .startTimer _ => some fun s =>
      if s.mode = .starting then setFlag .startIncomplete (enterRun s) else s
    | _ => none

/-- LINE_LEVEL_UPDATE (R15, R151). -/
def execLineLevelUpdate (s : State) : Host.Outcome State Fault Refusal :=
  whenAlive s <| grant fun r =>
    match r with
    | .lineLevel i level _ => some <| unlessConfig fun s =>
      settle s [] (intakeWhere (ofInput i) (fun _ => .bit level) s)
    | _ => none

/-- SAMPLE_UPDATE (R15, R164). -/
def execSampleUpdate (s : State) : Host.Outcome State Fault Refusal :=
  whenAlive s <| grant fun r =>
    match r with
    | .sample k m _ => some <| unlessConfig fun s =>
      settle s [] (intakeWhere (ofChannel k) (fun _ => .measure m) s)
    | _ => none

end Sys2Proof.Machine
end

