-- ==== Sys2Proof/Machine/Dispatch.lean ====
section
/-! DEFINITION. One arm per command of the table, each one direct call of its meaning. -/

namespace Sys2Proof.Machine

def exec (i : Instr) (s : State) : Host.Outcome State Fault Refusal :=
  match i with
  | .exchange seq payload => Sys2Proof.Machine.execExchange seq payload s
  | .exchangeUpdate => Sys2Proof.Machine.execExchangeUpdate s
  | .readEntry seq table entry => Sys2Proof.Machine.execReadEntry seq table entry s
  | .writeEntry seq table entry image => Sys2Proof.Machine.execWriteEntry seq table entry image s
  | .clearTable seq table => Sys2Proof.Machine.execClearTable seq table s
  | .start seq => Sys2Proof.Machine.execStart seq s
  | .stop seq => Sys2Proof.Machine.execStop seq s
  | .restart seq => Sys2Proof.Machine.execRestart seq s
  | .force seq point value => Sys2Proof.Machine.execForce seq point value s
  | .release seq point => Sys2Proof.Machine.execRelease seq point s
  | .releaseAll seq => Sys2Proof.Machine.execReleaseAll seq s
  | .bypass seq entry seconds => Sys2Proof.Machine.execBypass seq entry seconds s
  | .cancelBypass seq entry => Sys2Proof.Machine.execCancelBypass seq entry s
  | .setMask seq node mask => Sys2Proof.Machine.execSetMask seq node mask s
  | .setAttentionMask seq mask => Sys2Proof.Machine.execSetAttentionMask seq mask s
  | .clearAttention seq flags => Sys2Proof.Machine.execClearAttention seq flags s
  | .readStatus seq part => Sys2Proof.Machine.execReadStatus seq part s
  | .resetCounters seq => Sys2Proof.Machine.execResetCounters seq s
  | .fetch seq payload => Sys2Proof.Machine.execFetch seq payload s
  | .forward seq dest payload => Sys2Proof.Machine.execForward seq dest payload s
  | .telegramEnd port => Sys2Proof.Machine.execTelegramEnd port s
  | .receptionBroken port => Sys2Proof.Machine.execReceptionBroken port s
  | .receptionOverlong port => Sys2Proof.Machine.execReceptionOverlong port s
  | .endOfTransmission port => Sys2Proof.Machine.execEndOfTransmission port s
  | .cycleStart => Sys2Proof.Machine.execCycleStart s
  | .replyWindowExpiry seg => Sys2Proof.Machine.execReplyWindowExpiry seg s
  | .turnaroundExpiry seg => Sys2Proof.Machine.execTurnaroundExpiry seg s
  | .answerWindowExpiry seg => Sys2Proof.Machine.execAnswerWindowExpiry seg s
  | .holdTimerExpiry point => Sys2Proof.Machine.execHoldTimerExpiry point s
  | .holdExpiryUpdate => Sys2Proof.Machine.execHoldExpiryUpdate s
  | .replyIntakeUpdate => Sys2Proof.Machine.execReplyIntakeUpdate s
  | .nodeLossUpdate => Sys2Proof.Machine.execNodeLossUpdate s
  | .driveSilenceExpiry => Sys2Proof.Machine.execDriveSilenceExpiry s
  | .driveSilenceUpdate => Sys2Proof.Machine.execDriveSilenceUpdate s
  | .termHoldExpiry entry term => Sys2Proof.Machine.execTermHoldExpiry entry term s
  | .termHoldUpdate => Sys2Proof.Machine.execTermHoldUpdate s
  | .bypassTimerExpiry entry => Sys2Proof.Machine.execBypassTimerExpiry entry s
  | .bypassExpiryUpdate => Sys2Proof.Machine.execBypassExpiryUpdate s
  | .startTimerExpiry => Sys2Proof.Machine.execStartTimerExpiry s
  | .entryToRun => Sys2Proof.Machine.execEntryToRun s
  | .inputLevelChange input level time => Sys2Proof.Machine.execInputLevelChange input level time s
  | .inputDebounceExpiry input => Sys2Proof.Machine.execInputDebounceExpiry input s
  | .lineLevelUpdate => Sys2Proof.Machine.execLineLevelUpdate s
  | .lampStepExpiry => Sys2Proof.Machine.execLampStepExpiry s
  | .periodStart output => Sys2Proof.Machine.execPeriodStart output s
  | .onTimerExpiry output => Sys2Proof.Machine.execOnTimerExpiry output s
  | .phaseTimerExpiry output => Sys2Proof.Machine.execPhaseTimerExpiry output s
  | .captureLevelChange channel levels time => Sys2Proof.Machine.execCaptureLevelChange channel levels time s
  | .captureDebounceExpiry channel inputs => Sys2Proof.Machine.execCaptureDebounceExpiry channel inputs s
  | .channelTimeoutExpiry channel => Sys2Proof.Machine.execChannelTimeoutExpiry channel s
  | .sampleTimerExpiry channel => Sys2Proof.Machine.execSampleTimerExpiry channel s
  | .sampleUpdate => Sys2Proof.Machine.execSampleUpdate s
  | .resetLine => Sys2Proof.Machine.execResetLine s
  | .powerOn => Sys2Proof.Machine.execPowerOn s
  | .openingFence port => Sys2Proof.Machine.execOpeningFence port s
  | .contentOctetCollected port octet => Sys2Proof.Machine.execContentOctetCollected port octet s
  | .receptionEndedWithoutOutcome port => Sys2Proof.Machine.execReceptionEndedWithoutOutcome port s
  | .resetLineRelease => Sys2Proof.Machine.execResetLineRelease s
  | .powerLoss => Sys2Proof.Machine.execPowerLoss s

end Sys2Proof.Machine
end

