-- ==== Sys2Proof/Safety.lean ====
section
/-! DEFINITION. What the claims speak of: the rows of the PLC's telegrams, when the part can serve them,
when an update stands to be granted, what the later steps of an update may change, how exchanges and
forwards end, what START validation refuses, and the invariants of the machine, each with the sentence of
the manual it follows. -/

namespace Sys2Proof.Machine

open Sys2Proof

/-! ## The rows of the PLC's telegrams -/

/-- The MANAGE command of a row, with the sequence of the telegram that carries it (R175). -/
def commandOf : Instr → Option (Seq × Command)
  | .readEntry seq table entry => some (seq, .readEntry table entry)
  | .writeEntry seq table entry image => some (seq, .writeEntry table entry image)
  | .clearTable seq table => some (seq, .clearTable table)
  | .start seq => some (seq, .start)
  | .stop seq => some (seq, .stop)
  | .restart seq => some (seq, .restart)
  | .force seq point value => some (seq, .force point value)
  | .release seq point => some (seq, .release point)
  | .releaseAll seq => some (seq, .releaseAll)
  | .bypass seq entry seconds => some (seq, .bypass entry seconds)
  | .cancelBypass seq entry => some (seq, .cancelBypass entry)
  | .setMask seq node mask => some (seq, .setMask node mask)
  | .setAttentionMask seq mask => some (seq, .setAttentionMask mask)
  | .clearAttention seq flags => some (seq, .clearAttention flags)
  | .readStatus seq part => some (seq, .readStatus part)
  | .resetCounters seq => some (seq, .resetCounters)
  | .exchange .. | .exchangeUpdate | .fetch .. | .forward .. | .telegramEnd _ | .receptionBroken _
  | .receptionOverlong _ | .endOfTransmission _ | .cycleStart | .replyWindowExpiry _
  | .turnaroundExpiry _ | .answerWindowExpiry _ | .holdTimerExpiry _ | .holdExpiryUpdate
  | .replyIntakeUpdate | .nodeLossUpdate | .driveSilenceExpiry | .driveSilenceUpdate
  | .termHoldExpiry .. | .termHoldUpdate | .bypassTimerExpiry _ | .bypassExpiryUpdate
  | .startTimerExpiry | .entryToRun | .inputLevelChange .. | .inputDebounceExpiry _ | .lineLevelUpdate
  | .lampStepExpiry | .periodStart _ | .onTimerExpiry _ | .phaseTimerExpiry _ | .captureLevelChange ..
  | .captureDebounceExpiry .. | .channelTimeoutExpiry _ | .sampleTimerExpiry _ | .sampleUpdate
  | .resetLine | .powerOn | .openingFence _ | .contentOctetCollected .. | .receptionEndedWithoutOutcome _
  | .resetLineRelease | .powerLoss => none

/-- The telegram of a row that the Drive Port takes, and how far its service has come when the row serves
it: a management update waits for its grant, any other telegram for its row (R97, R171). -/
def telegramOf (c : Instr) : Option (DriveTelegram × ServiceStage) :=
  match c with
  | .exchange seq payload => some (⟨.exchange, Config.junction, seq, payload⟩, .toServe)
  | .fetch seq payload => some (⟨.fetch, Config.junction, seq, payload⟩, .toServe)
  | .forward seq d payload => if d = 0 then none else some (⟨.forward, d, seq, payload⟩, .toServe)
  | _ => (commandOf c).map fun e =>
    (manageTelegram e.1 e.2, if e.2.isUpdate then .requested else .toServe)

/-- The row that grants a block's own request, or discards it (R18, R19). The PLC's updates, which are
answered, have rows of their own. -/
def blockUpdate : Request → Option Instr
  | .holdExpiry .. => some .holdExpiryUpdate
  | .driveSilence _ => some .driveSilenceUpdate
  | .termHold .. => some .termHoldUpdate
  | .bypassExpiry .. => some .bypassExpiryUpdate
  | .startTimer _ | .entryToRun => some .entryToRun
  | .replyIntake .. => some .replyIntakeUpdate
  | .nodeLoss .. => some .nodeLossUpdate
  | .lineLevel .. => some .lineLevelUpdate
  | .sample .. => some .sampleUpdate
  | .exchange _ | .manage _ => none

/-! ## When commands have their effect -/

/-- The part takes commands, serves no telegram, and the Drive Port is neither sending nor in the
middle of a reception, its receiver open (R83). -/
def State.canServe (s : State) : Prop :=
  s.alive = true ∧ s.service = none ∧ s.waiting = none ∧ s.ports.drive.sending = none ∧
    s.ports.drive.inProgress = false ∧ s.ports.drive.rxOpen = true

/-- The telegram `t` is being served and its request `r` stands at the head of the arbiter's list; the
Drive Port is free for the answer. -/
def State.atGrantOf (s : State) (t : DriveTelegram) (r : Request) (rest : List Request) : Prop :=
  s.alive = true ∧ s.service = some ⟨t, .requested⟩ ∧ s.waiting = none ∧
    s.ports.drive.sending = none ∧ s.ports.drive.inProgress = false ∧ s.arbiter = r :: rest

/-- An update of a block stands at the head of the arbiter's list, outside CONFIG. -/
def State.grants (s : State) (r : Request) (rest : List Request) : Prop :=
  s.alive = true ∧ s.mode ≠ .config ∧ s.arbiter = r :: rest

/-- The state `w` with an answer of the Drive Service begun on the drive port and the service over: to
the PLC address that `before` holds (R85, R171), the receiver closed while it goes out (R83). -/
def answered (before : State) (kind : Kind) (seq : Seq) (payload : List Octet) (w : State) : State :=
  { w with
    service := none
    ports := { w.ports with
      drive := { w.ports.drive with
        rx := .seeking, content := [], bits := [], rxOpen := false, awaited := .nothing
        sending := some
          ⟨⟨before.tables.global.plcAddress, Config.junction, kind, seq, payload⟩, .answer⟩ } } }

/-- A MANAGE ANSWER: the command code, the result code, and the data (R171). -/
def managed (before : State) (seq : Seq) (code : Octet) (result : List Octet) (w : State) : State :=
  answered before .manageAnswer seq (code :: result) w

/-! ## The ends of exchanges and forwards (R125 to R127, R142 to R145) -/

/-- The exchange with node `n` has ended with an outcome: the Node Table has it (R107), the awaited reply
is cleared, and the segment is in TURNAROUND. -/
def exchangeEnded (g : Seg) (n : NodeNo) (o : ExchangeOutcome) (instant : Option Nat) (w : State) :
    State :=
  let u := nodeOutcome n o instant w
  { u with
    segs := u.segs.upd g fun r => { r with
      work := .turnaround, window := .stopped, windowExpired := false
      turnaround := .running (w.now + turnaroundTime w g) }
    ports := u.ports.upd (portOf g) fun r => { r with awaited := .nothing } }

/-- The forward `f` has ended with an outcome: its record joins the return queue, a full queue discards
its oldest and RETURN_OVERWRITTEN is set, the awaited reply is cleared, and the segment is in
TURNAROUND. -/
def forwardEnded (g : Seg) (f : Forward) (o : ReturnOutcome) (w : State) : State :=
  { setFlagIf (decide (4 ≤ w.returns.length)) .returnOverwritten w with
    returns := (if w.returns.length < 4 then w.returns else w.returns.drop 1) ++ [⟨f.tag, o⟩]
    segs := w.segs.upd g fun r => { r with
      work := .turnaround, inFlight := none, answerWindow := .stopped, answerExpired := false
      turnaround := .running (w.now + turnaroundTime w g) }
    ports := w.ports.upd (portOf g) fun r => { r with awaited := .nothing } }

/-! ## What a released point takes (R23, R39, R42) -/

/-- What a forced point that is not DERIVED is given at its release: `rt` its record while it was forced,
`rt'` the one after. -/
def PointCfg.givenBack (c : PointCfg) (rt rt' : PointRt) : Prop :=
  let shows := fun (v : Word32) (q : Quality) =>
    rt' = { rt with value := v, quality := q, withheld := .absent }
  (rt.withheld = .absent →
    rt' = { rt with value := c.zeroClamped, quality := .unset, hold := .stopped, seed := false }) ∧
  (c.source = .state → ∀ b, rt.withheld = .fresh (.bit b) → shows (wordOfBool b) .good) ∧
  (c.source ≠ .state → c.form ≠ .cnt → ∀ r,
    (rt.withheld = .fresh r → shows (convert c r).1 (convert c r).2) ∧
    (rt.withheld = .aged r → c.policy = .hold → shows (convert c r).1 .stale) ∧
    (rt.withheld = .aged r → c.policy = .safe → shows c.safeValue .substituted)) ∧
  (c.source ≠ .state → c.form = .cnt → ∀ n,
    (rt.withheld = .fresh (.advance n) → shows (rt.forcedValue + n) .good) ∧
    (rt.withheld = .aged (.advance n) → c.policy = .hold → shows (rt.forcedValue + n) .stale) ∧
    (rt.withheld = .aged (.advance n) → c.policy = .safe → shows c.safeValue .substituted))

/-! ## What START validation refuses (R179) -/

/-- Term or member `k` is used and its point passes a test. -/
def DerivedCfg.someMember (d : DerivedCfg) (test : Member → Prop) : Prop :=
  ∃ k : Fin 4, k.val < d.count.val ∧ test d.members[k]

/-- The limits of a point lie within `lo..hi`, and its form is WORD (R59, R152). -/
def PointCfg.isWordWithin (c : PointCfg) (lo hi : Int) : Prop :=
  c.form = .word ∧ lo ≤ c.low.toInt ∧ c.high.toInt ≤ hi

/-- A value lies outside the limits of a point; a CNT point has none (R4). -/
def PointCfg.outside (c : PointCfg) (v : Word32) : Prop :=
  match c.form with
  | .bin => v ≠ 0 ∧ v ≠ 1
  | .word | .ana => v.toInt < c.low.toInt ∨ c.high.toInt < v.toInt
  | .cnt => False

/-- The check `code` fails on point `p` (R2 to R4, R30, R44, R59, R103, R132, R149, R152, R161, R178). No
check is made on an unused record (log entry 25). -/
def Tables.pointFails (ts : Tables) (p : PointNo) (code : Nat) : Prop :=
  let c := ts.points[p]
  let bit := c.refB.val < 64
  let word := 256 ≤ c.refB.val ∧ c.refB.val ≤ 263
  let entry := ts.derived[c.refA]
  c.source ≠ .unused ∧
  match code with
  | 1 => c.source = .feed ∧ ts.source c.refB = .unused
  | 2 =>
    (c.source = .node ∧ bit ∧ c.form ≠ .bin) ∨ (c.source = .node ∧ word ∧ c.form = .bin) ∨
    (c.source = .plc ∧ c.form = .cnt) ∨ ((c.source = .line ∨ c.source = .state) ∧ c.form ≠ .bin) ∨
    (c.source = .channel ∧ c.form ≠ .ana) ∨
    (c.source = .derived ∧ entry.kind = .trip ∧ c.form ≠ .bin) ∨
    (c.source = .derived ∧ (entry.kind = .sum ∨ entry.kind = .ratio) ∧ c.form ≠ .ana) ∨
    (c.source = .feed ∧ c.form ≠ .bin ∧ c.form ≠ .word)
  | 3 =>
    ((c.form = .word ∨ c.form = .ana) ∧ c.high.toInt < c.low.toInt) ∨
    (c.form = .cnt ∧ ¬ (c.low.toInt = 0 ∧ c.high.toInt = -1))
  | 4 =>
    ((c.source = .node ∨ c.source = .plc) ∧ c.outside c.safeValue) ∨
    (c.source = .feed ∧ c.outside c.blocked)
  | 5 =>
    c.source = .node ∧ ∃ n : NodeNo, c.refA.val = n.val ∧
      10 * c.holdLimit <
        (holdGap ts.nodes[n].pollMask ts.global.patternPeriod + 1) * ts.global.cyclePeriod
  | 6 =>
    ((c.source = .node ∨ c.source = .state) ∧ 15 < c.refA.val) ∨
    (c.source = .node ∧ ¬ bit ∧ ¬ word) ∨
    (c.source = .node ∧ ∃ n : NodeNo, c.refA.val = n.val ∧
      ((bit ∧ ts.nodes[n].inputBits ≤ c.refB.val) ∨
        (word ∧ 256 + ts.nodes[n].inputWords ≤ c.refB.val))) ∨
    (c.source = .feed ∧
      ((c.targetKind = .nodeOutBit ∧ ts.nodes[c.targetA].outputBits ≤ c.targetB.val) ∨
        (c.targetKind = .nodeOutWord ∧ ts.nodes[c.targetA].outputWords ≤ c.targetB.val)))
  | 9 => c.source = .derived ∧ (entry.kind = .unused ∨ entry.result ≠ p)
  | 10 => c.source = .feed ∧ ∃ e, c.guard = some e ∧ ts.interlocks[e].mode = .unused
  | 11 =>
    c.source = .feed ∧
    (ts.source c.refB = .feed ∨
      (∃ q, q < p ∧ ts.source q = .feed ∧ ts.points[q].targetKind = c.targetKind ∧
        ts.points[q].targetA = c.targetA ∧
        (c.targetKind = .localOut ∨
          (c.targetKind ≠ .nothing ∧ ts.points[q].targetB = c.targetB))) ∨
      (c.targetKind = .nodeOutBit ∧ c.form ≠ .bin) ∨
      (c.targetKind = .nodeOutWord ∧ ¬ c.isWordWithin (-32768) 65535) ∨
      (c.targetKind = .localOut ∧ 7 < c.targetA.val))
  | 12 => c.source = .plc ∧ ∀ k : Fin 32, ts.writeList[k] ≠ some p
  | 13 =>
    (c.source = .line ∧ 7 < c.refA.val) ∨ (c.source = .channel ∧ 3 < c.refA.val) ∨
    (c.source = .channel ∧ ∃ k : ChannelNo, c.refA.val = k.val ∧ ts.channels[k].mode = .off) ∨
    (c.source = .feed ∧ c.targetKind = .localOut ∧ ∃ o : OutputNo, c.targetA.val = o.val ∧
      (ts.outputs[o].mode = .train ∨ ts.outputs[o].mode = .duty) ∧ ¬ c.isWordWithin 0 255)
  | _ => False

/-- The check `code` fails on node entry `n` (R103). -/
def Tables.nodeFails (ts : Tables) (n : NodeNo) (code : Nat) : Prop :=
  let c := ts.nodes[n]
  c.enabled = true ∧
  match code with
  | 7 =>
    c.address.val = 0 ∨ c.address.val = 62 ∨ c.address.val = 63 ∨
    ∃ m, m < n ∧ ts.nodes[m].enabled = true ∧ ts.nodes[m].segment = c.segment ∧
      ts.nodes[m].address = c.address
  | 8 => ∀ b, b < ts.global.patternPeriod → c.pollMask.getLsbD b = false
  | _ => False

/-- The check `code` fails on derived entry `e` (R2, R44, R45). -/
def Tables.derivedFails (ts : Tables) (e : DerivedNo) (code : Nat) : Prop :=
  let d := ts.derived[e]
  d.kind ≠ .unused ∧
  match code with
  | 1 => ts.source d.result = .unused ∨ d.someMember fun m => ts.source m.point = .unused
  | 9 =>
    ts.source d.result ≠ .derived ∨ ts.points[d.result].refA ≠ e ∨
    (d.kind = .sum ∧ d.count = 0) ∨ (d.kind = .ratio ∧ d.count ≠ 2) ∨
    (d.kind = .trip ∧ d.count ≠ 1) ∨ (d.kind = .sum ∧ d.someMember fun m => m.weight = 0) ∨
    (d.someMember fun m => ts.source m.point = .feed ∨
      (ts.source m.point = .derived ∧ e ≤ ts.points[m.point].refA)) ∨
    (d.kind = .trip ∧ d.falling = false ∧ d.setLevel.toInt ≤ d.resetLevel.toInt) ∨
    (d.kind = .trip ∧ d.falling = true ∧ d.resetLevel.toInt ≤ d.setLevel.toInt)
  | _ => False

/-- The check `code` fails on interlock entry `e` (R66). -/
def Tables.interlockFails (ts : Tables) (e : InterlockNo) (code : Nat) : Prop :=
  let c := ts.interlocks[e]
  let some_ := fun source => ∃ k : TermNo, k.val < c.count.val ∧ ts.source c.terms[k].point = source
  c.mode ≠ .unused ∧
  match code with
  | 1 => some_ .unused
  | 10 => c.count = 0 ∨ some_ .feed
  | _ => False

/-- The check `code` fails on write list entry `k` (R2, R178). -/
def Tables.writeFails (ts : Tables) (k : Fin 32) (code : Nat) : Prop :=
  ∃ p, ts.writeList[k] = some p ∧
  match code with
  | 1 => ts.source p = .unused
  | 12 =>
    (∃ j, j < k ∧ ts.writeList[j] = none) ∨ ts.source p ≠ .plc ∨
    ∃ j, j < k ∧ ts.writeList[j] = some p
  | _ => False

/-- The check `code` fails on emit list entry `k` (R178). -/
def Tables.emitFails (ts : Tables) (k : Fin 48) (code : Nat) : Prop :=
  ∃ p, ts.emitList[k] = some p ∧
  match code with
  | 1 => ts.source p = .unused
  | 12 => ∃ j, j < k ∧ ts.emitList[j] = none
  | _ => False

/-- The check `code` fails on local output entry `o` (R152), whether or not an OUT point targets it (log
entry 24). -/
def Tables.outputFails (ts : Tables) (o : OutputNo) (code : Nat) : Prop :=
  let c := ts.outputs[o]
  code = 13 ∧ c.mode = .train ∧
    (c.highTime = 0 ∨ c.lowTime = 0 ∨ (8 ≤ c.enableInput.toNat ∧ c.enableInput.toNat ≤ 254))

/-- The check `code` fails on channel entry `k` (R161). -/
def Tables.channelFails (ts : Tables) (k : ChannelNo) (code : Nat) : Prop :=
  let c := ts.channels[k]
  code = 13 ∧ c.index ≠ .nothing ∧
    (k ≠ 0 ∨ c.mode = .period ∨ c.mode = .width ∨
      (c.mode = .count ∧ (c.preset < 0 ∨ (c.limit ≠ 0 ∧ (c.limit : Int) < c.preset))))

/-- The check `code` fails on an entry of a table, by table id (R176, R179). FORWARD, LOCAL INPUT and
GLOBAL hold no checks of their own. -/
def Tables.fails (ts : Tables) (table entry code : Nat) : Prop :=
  match table with
  | 1 => ∃ p : PointNo, entry = p.val ∧ ts.pointFails p code
  | 2 => ∃ n : NodeNo, entry = n.val ∧ ts.nodeFails n code
  | 3 => ∃ e : DerivedNo, entry = e.val ∧ ts.derivedFails e code
  | 4 => ∃ e : InterlockNo, entry = e.val ∧ ts.interlockFails e code
  | 6 => ∃ k : Fin 32, entry = k.val ∧ ts.writeFails k code
  | 7 => ∃ k : Fin 48, entry = k.val ∧ ts.emitFails k code
  | 8 => ∃ o : OutputNo, entry = o.val ∧ ts.outputFails o code
  | 10 => ∃ k : ChannelNo, entry = k.val ∧ ts.channelFails k code
  | _ => False

/-! ## What an update may change (R16, R17) -/

/-- Every used derived entry names a DERIVED point as its result (R44). -/
def Tables.resultsBound (ts : Tables) : Prop :=
  ∀ e : DerivedNo, ts.derived[e].kind ≠ .unused → ts.source ts.derived[e].result = .derived

/-- From `w` to `t` only the image changes, and what depends on it: besides the points that `written`
names, only DERIVED points that are not forced and OUT points change, in value, quality and latch, and
with them trip states, terms and permits, and local outputs. -/
structure ImageChanged (w t : State) (written : PointNo → Bool) : Prop where
  /-- Nothing else of the machine changes. -/
  frame : t = { w with
    points := t.points, trips := t.trips, interlocks := t.interlocks, outputs := t.outputs,
    attention := t.attention }
  /-- Of the attention flags only TRAIN_IGNORED may be set (R158). -/
  flags : ∀ f, f ≠ .trainIgnored → t.flag f = w.flag f
  /-- Of the points that are not written, what may change depends on the source (R16). -/
  points : ∀ p, written p = false → t.points[p] =
    match w.tables.source p with
    | .derived =>
      if w.isForced p then w.points[p]
      else { w.points[p] with value := t.points[p].value, quality := t.points[p].quality }
    | .feed =>
      { w.points[p] with
        value := t.points[p].value, quality := t.points[p].quality, latch := t.points[p].latch }
    | .unused | .node | .plc | .line | .channel | .state => w.points[p]

/-- No used member of the entry is a changed point, and none may change in the course of steps 2 and
4. -/
def DerivedCfg.undisturbed (d : DerivedCfg) (w t : State) : Prop :=
  d.kind = .unused ∨ ∀ m ∈ d.used, w.tables.source m.point ≠ .derived ∧
    w.tables.source m.point ≠ .feed ∧ w.differs t m.point = false

/-- No used term of the entry stands on an OUT point (R66). -/
def InterlockCfg.offOuts (c : InterlockCfg) (ts : Tables) : Prop :=
  ∀ k : TermNo, k.val < c.count.val → ts.source c.terms[k].point ≠ .feed

/-- From `w`, as it stands before the write step of an update, to `t`, where its fourth step ends (R17).
`written` are the points the write step names, `also` the interlock entries whose term or bypass it
changes. -/
structure Updated (w t : State) (written : PointNo → Bool) (also : List InterlockNo := []) : Prop
    extends ImageChanged w t written where
  /-- The trip state of an entry stands unless a member is a changed point (R47) or its result point is
  released (R56). -/
  trips : ∀ e : DerivedNo,
    (∀ p, written p = true → w.tables.source p = .derived → w.tables.points[p].refA ≠ e) →
    w.tables.derived[e].undisturbed w t → t.trips[e] = w.trips[e]
  /-- An entry none of whose term points changed is not evaluated: its terms keep their states and its
  hold timers run on (R71). -/
  standing : ∀ e : InterlockNo, e ∉ also → w.tables.interlocks[e].offOuts w.tables →
    (w.tables.interlocks[e].mode = .unused ∨ ∀ k : TermNo,
      k.val < w.tables.interlocks[e].count.val →
      w.differs t w.tables.interlocks[e].terms[k].point = false) →
    t.interlocks[e] = w.interlocks[e]
  /-- A used entry with a term on a changed point is evaluated: every used term is tested and moved, and
  the permits are recomputed (R70, R71). -/
  evaluated : ∀ e : InterlockNo, e ∉ also → w.tables.interlocks[e].offOuts w.tables →
    w.tables.interlocks[e].mode ≠ .unused →
    (∃ k : TermNo, k.val < w.tables.interlocks[e].count.val ∧
      w.differs t w.tables.interlocks[e].terms[k].point = true) →
    t.interlocks[e] =
      recompute t e w.tables.interlocks[e] (moveTerms t w.tables.interlocks[e] w.interlocks[e])
  /-- A local output whose OUT points do not change stands (R64). -/
  outputsStand : ∀ o : OutputNo,
    (∀ p, w.tables.points[p].localTarget = some o → written p = false ∧ w.differs t p = false) →
    t.outputs[o] = w.outputs[o]
  /-- A local output is handed the value of its OUT point when that changes (R62, R64). -/
  outputsHanded : ∀ (o : OutputNo) (p : PointNo), w.tables.points[p].localTarget = some o →
    (∀ q, w.tables.points[q].localTarget = some o → q = p) → written p = false →
    w.differs t p = true → w.mode ≠ .config →
    t.outputs[o] = (handed w w.tables.outputs[o] t.points[p].value w.outputs[o]).1

/-! ## Invariants -/

/-- At most 16 points are forced and at most 4 entries bypassed, neither list holds one twice (R5,
R76), each forward queue holds at most 4 forwards and the return queue at most 4 records (R141, R145),
and a reception at most 256 octets, with fewer than eight bits after them (R82). -/
def listsBounded (s : State) : Prop :=
  s.forced.length ≤ Config.maxForced ∧ s.forced.Nodup ∧
    s.bypasses.length ≤ Config.maxBypasses ∧ (s.bypasses.map Bypass.entry).Nodup ∧
    (∀ g, (s.segs.get g).queue.length ≤ Config.maxForwards) ∧
    s.returns.length ≤ Config.maxReturns ∧
    ∀ p, (s.ports.get p).content.length ≤ Config.maxContent ∧ (s.ports.get p).bits.length < 8

/-- The slot counter is less than the pattern period (R121) and the lamp step index less than the lamp
pattern length (R155); in CONFIG both stand at 0 with their timers stopped. -/
def countersInRange (s : State) : Prop :=
  1 ≤ s.tables.global.patternPeriod ∧ s.tables.global.patternPeriod ≤ 16 ∧
    1 ≤ s.tables.global.lampLength ∧ s.tables.global.lampLength ≤ 16 ∧
    s.slot < s.tables.global.patternPeriod ∧ s.lampIndex < s.tables.global.lampLength ∧
    (s.mode = .config →
      s.slot = 0 ∧ s.lampIndex = 0 ∧ s.cycleTimer = .stopped ∧ s.lampTimer = .stopped)

/-- A node's consecutive miss count never exceeds its miss limit and is 0 whenever the node is ONLINE
(R111); only a SUSPECT node has one. Its rejoin goods stay within the rejoin count, and only a
REJOINING node has any (R110). -/
def missesBounded (s : State) : Prop :=
  ∀ n : NodeNo,
    s.nodes[n].misses ≤ s.tables.nodes[n].missLimit ∧
      (s.nodes[n].link ≠ .suspect → s.nodes[n].misses = 0) ∧
      s.nodes[n].goods ≤ s.tables.nodes[n].rejoinCount ∧
      (s.nodes[n].link ≠ .rejoining → s.nodes[n].goods = 0)

/-- A segment in CONFIG: its work stopped and abandoned, nothing waiting but a SAFE (R119, R134). -/
def segQuiet (r : SegRt) : Prop :=
  r.work = .stopped ∧ r.pollList = [] ∧ r.next = 0 ∧ r.forwardSent = false ∧ r.window = .stopped ∧
    r.windowExpired = false ∧ r.turnaround = .stopped ∧ r.queue = [] ∧ r.inFlight = none ∧
    r.answerWindow = .stopped ∧ r.answerExpired = false ∧ ∀ o ∈ r.outbox, o.owner = .safe

/-- A segment's port in CONFIG awaits nothing, and what it still sends belongs to no exchange and no
forward (R85, R134). -/
def portQuiet (r : PortRt) : Prop :=
  r.awaited = .nothing ∧ ∀ o, r.sending = some o → o.abandon = o

/-- In CONFIG no point is forced and no entry bypassed (R21, R76), every hold timer is stopped (R9),
terms are UNSATISFIED and permits false (R72), every node is ABSENT (R108, R116), the segments are
stopped (R119), the local outputs inactive with their last value 0 and their timers stopped (R153),
and the sample, start and drive silence timers are stopped (R162, R182). -/
def quietInConfig (s : State) : Prop :=
  s.mode = .config →
    s.forced = [] ∧ s.bypasses = [] ∧ (∀ p : PointNo, s.points[p].hold = .stopped) ∧
      s.interlocks = Vector.replicate 48 {} ∧
      (∀ n : NodeNo, s.nodes[n].link = .absent ∧ s.nodes[n].lossPending = false) ∧
      (∀ g, segQuiet (s.segs.get g) ∧ portQuiet (s.ports.get (portOf g))) ∧
      (∀ o : OutputNo, s.outputs[o] = s.outputs[o].quieted) ∧
      (∀ k : ChannelNo, s.channels[k].sample = .stopped) ∧
      s.startTimer = .stopped ∧ s.silenceTimer = .stopped ∧ s.exchangeTaken = false ∧
      s.plcSilent = false

/-- Outside CONFIG the tables pass START validation (R179): START refuses any others, WRITE ENTRY and
CLEAR TABLE are refused (R176), and SET MASK makes the checks its change concerns (R133). -/
def tablesValid (s : State) : Prop := s.mode ≠ .config → validate s.tables = none

/-- Only NODE points have a hold timer that runs (R9), and no OUT point and no unused one is forced
(R21). -/
def sourcesKept (s : State) : Prop :=
  (∀ p : PointNo, s.points[p].hold ≠ .stopped → s.tables.source p = .node) ∧
    ∀ p ∈ s.forced, s.tables.source p ≠ .unused ∧ s.tables.source p ≠ .feed

/-- Every point of the forced list has quality FORCED (R21): until its release no write shows on it (R22,
R55). -/
def forcedShown (s : State) : Prop := ∀ p ∈ s.forced, s.points[p].quality = .forced

/-- A NODE point is GOOD or LIMITED only while its node is ONLINE or SUSPECT and its hold timer counts as
running (R9); so too where it is forced with a fresh intake withheld, as which its release shows it
(R22, R23). -/
def nodesFresh (s : State) : Prop :=
  s.mode ≠ .config → ∀ p : PointNo, s.tables.source p = .node →
    (s.points[p].quality = .good ∨ s.points[p].quality = .limited ∨
      (p ∈ s.forced ∧ ∃ r, s.points[p].withheld = .fresh r)) →
    s.points[p].hold ≠ .stopped ∧
      ∀ n : NodeNo, s.tables.points[p].refA.val = n.val →
        s.nodes[n].link = .online ∨ s.nodes[n].link = .suspect

/-- Every point whose quality is not UNSET holds a value within its limits, a CNT point any (R4); and only a
NODE or PLC point withholds an aged intake, which its release may replace by its safe value (R7, R22). -/
def limitsKept (s : State) : Prop :=
  ∀ p : PointNo,
    (s.points[p].quality ≠ .unset → ¬ s.tables.points[p].outside s.points[p].value) ∧
      ∀ r, s.points[p].withheld = .aged r →
        s.tables.source p = .node ∨ s.tables.source p = .plc

/-- The request is one of the Drive Service: a taken EXCHANGE or a management update. -/
def Request.ofDrive : Request → Bool
  | .exchange _ | .manage _ => true
  | _ => false

/-- The request concerns a node: a reply's intake, or its loss. -/
def Request.concerns (n : NodeNo) : Request → Prop
  | .replyIntake m _ _ | .nodeLoss m _ => m = n
  | _ => False

/-- What waits in the arbiter's list (R8, R18, R113, R171). At most one request of the Drive Service, and only
while it serves that telegram; in CONFIG no request of a node behind a START; outside CONFIG an intake
only of a node that is ONLINE or SUSPECT, a loss only of one whose loss is pending, and behind a node's
loss no request of that node. -/
def requestsKept (s : State) : Prop :=
  s.arbiter.countP Request.ofDrive ≤ 1 ∧
    (∀ r ∈ s.arbiter, r.ofDrive = true → ∃ t, s.service = some ⟨t, .requested⟩) ∧
    (s.mode = .config →
      s.arbiter.Pairwise fun a b => a = .manage .start → ∀ n, ¬ b.concerns n) ∧
    (s.mode ≠ .config →
      (∀ n payload rise, Request.replyIntake n payload rise ∈ s.arbiter →
        s.nodes[n].link = .online ∨ s.nodes[n].link = .suspect) ∧
      (∀ n instant, Request.nodeLoss n instant ∈ s.arbiter → s.nodes[n].lossPending = true) ∧
      s.arbiter.Pairwise fun a b => ∀ n instant, a = .nodeLoss n instant → ¬ b.concerns n)

/-- A closed receiver is SEEKING and has nothing collected (R83, R88). -/
def receiversClosed (s : State) : Prop :=
  ∀ p, (s.ports.get p).rxOpen = false →
    (s.ports.get p).rx = .seeking ∧ (s.ports.get p).content = [] ∧ (s.ports.get p).bits = []

/-- The poll list of a segment holds enabled nodes of that segment in ascending order, and its next
position does not pass its end (R122, R123). -/
def pollListsKept (s : State) : Prop :=
  ∀ g, (s.segs.get g).pollList.Pairwise (· < ·) ∧
    (s.segs.get g).next ≤ (s.segs.get g).pollList.length ∧
    ∀ n ∈ (s.segs.get g).pollList,
      s.tables.nodes[n].enabled = true ∧ s.tables.nodes[n].segment = g

/-- The point passes its feed (R60). The latch of a point guarded by a LEVEL entry is not read (R73). -/
def State.passes (s : State) (p : PointNo) : Prop :=
  let c := s.tables.points[p]
  s.mode = .run ∧ s.points[c.refB].quality ≠ .unset ∧
    match c.guard with
    | none => True
    | some e =>
      s.interlocks[e].effective = true ∧
        (s.tables.interlocks[e].mode ≠ .level → s.points[p].latch = false)

/-- In every state outside CONFIG an OUT point that passes holds its feed's value clamped into its own
limits with the quality of R61, and every other OUT point its blocked value, SUBSTITUTED (R60). In
CONFIG every OUT point holds its blocked value. -/
def outsFollow (s : State) : Prop :=
  ∀ p : PointNo,
    let c := s.tables.points[p]
    c.source = .feed →
      (s.mode = .config → s.points[p].value = c.blocked) ∧
      (s.mode ≠ .config → s.passes p →
        s.points[p].value = (c.clamp (s.reading c.refB)).1 ∧
        s.points[p].quality =
          passedQuality s.points[c.refB].quality (c.clamp (s.reading c.refB)).2) ∧
      (s.mode ≠ .config → ¬ s.passes p →
        s.points[p].value = c.blocked ∧ s.points[p].quality = .substituted)

/-- In RUN the latch of a REARM-guarded OUT point is set whenever its feed is active and the effective
permit of its guard false (R74). -/
def latchesSet (s : State) : Prop :=
  s.mode = .run → ∀ (p : PointNo) (e : InterlockNo),
    s.tables.source p = .feed → s.tables.points[p].guard = some e →
    s.tables.interlocks[e].mode = .rearm → s.feedActive s.tables.points[p].refB = true →
    s.interlocks[e].effective = false → s.points[p].latch = true

/-- Outside CONFIG every used derived entry agrees with its members: computing it once more changes
neither its trip state nor, unless it is forced, the value and quality of its result (R47, R55). -/
def derivedCurrent (s : State) : Prop :=
  s.mode ≠ .config → ∀ e : DerivedNo, s.tables.derived[e].kind ≠ .unused →
    (computeDerived s e).2 = s.trips[e] ∧
      (s.isForced s.tables.derived[e].result = false →
        (computeDerived s e).1 =
          some (s.points[s.tables.derived[e].result].value,
            s.points[s.tables.derived[e].result].quality))

/-- Outside CONFIG the permit of a used entry is true exactly when every used term is HELD, and its
effective permit when the permit is true or the entry is in the bypass list (R70). -/
def permitsCurrent (s : State) : Prop :=
  s.mode ≠ .config → ∀ e : InterlockNo, s.tables.interlocks[e].mode ≠ .unused →
    (s.interlocks[e].permit = true ↔
      ∀ k : TermNo, k.val < s.tables.interlocks[e].count.val →
        s.interlocks[e].terms[k].state = .held) ∧
    (s.interlocks[e].effective = true ↔
      s.interlocks[e].permit = true ∨ ∃ b ∈ s.bypasses, b.entry = e)

end Sys2Proof.Machine
end

