-- ==== Sys2Proof/WellFormed.lean ====
section
/-! DEFINITION. Which commands can reach the part: the bounds the manual puts on a command's operands
beyond what their types say. A meaning is total on ill-formed commands too. -/

namespace Sys2Proof

/-- No two entries of a list are equal. -/
def distinct {α : Type} [DecidableEq α] : List α → Bool
  | [] => true
  | x :: xs => !xs.contains x && distinct xs

/-- A telegram's payload is at most 250 octets (R90); a WRITE ENTRY spends four of them on its
command code, table and entry (R175); a FORWARD to 0 is never taken (R97); only channel 0 has an
input Z (R163), and one instant changes each input of a channel at most once. -/
def Instr.wellFormed : Instr → Bool
  | .exchange _ payload => decide (payload.length ≤ Config.maxPayload)
  | .fetch _ payload => decide (payload.length ≤ Config.maxPayload)
  | .writeEntry _ _ _ image => decide (image.length + 4 ≤ Config.maxPayload)
  | .forward _ dest payload => decide (payload.length ≤ Config.maxPayload) && decide (dest ≠ 0)
  | .captureLevelChange c levels _ =>
    let inputs := levels.map Prod.fst
    !inputs.isEmpty && distinct inputs && (decide (c = 0) || !inputs.contains .z)
  | .captureDebounceExpiry c inputs =>
    !inputs.isEmpty && distinct inputs && (decide (c = 0) || !inputs.contains .z)
  | .exchangeUpdate | .readEntry .. | .clearTable .. | .start .. | .stop .. | .restart ..
  | .force .. | .release .. | .releaseAll .. | .bypass .. | .cancelBypass .. | .setMask ..
  | .setAttentionMask .. | .clearAttention .. | .readStatus .. | .resetCounters ..
  | .telegramEnd .. | .receptionBroken .. | .receptionOverlong .. | .endOfTransmission ..
  | .cycleStart | .replyWindowExpiry .. | .turnaroundExpiry .. | .answerWindowExpiry ..
  | .holdTimerExpiry .. | .holdExpiryUpdate | .replyIntakeUpdate | .nodeLossUpdate
  | .driveSilenceExpiry | .driveSilenceUpdate | .termHoldExpiry .. | .termHoldUpdate
  | .bypassTimerExpiry .. | .bypassExpiryUpdate | .startTimerExpiry | .entryToRun
  | .inputLevelChange .. | .inputDebounceExpiry .. | .lineLevelUpdate | .lampStepExpiry
  | .periodStart .. | .onTimerExpiry .. | .phaseTimerExpiry .. | .channelTimeoutExpiry ..
  | .sampleTimerExpiry .. | .sampleUpdate | .resetLine | .powerOn | .openingFence ..
  | .contentOctetCollected .. | .receptionEndedWithoutOutcome .. | .resetLineRelease
  | .powerLoss => true

end Sys2Proof
end

