-- ==== Sys2Proof/Certificates/Slice0/Obligations.lean ====
section
/-! DEFINITION. The statements for the provers: the queue and reset, the invariants every step keeps,
the encodings, arithmetic rules, and for each command what it does and what it leaves. -/

open Sys2Proof Sys2Proof.Machine

/-! ## The machine -/

/-- A step carries out the command at the front of the queue on the state with the queue's rest; with an
empty queue the block idles (the model's choice, log entry 1). -/
def Obligations.StepRunsFrontCommand : Prop :=
  (∀ (c : Instr) (rest : List Instr) (s : State), s.pending = c :: rest →
    step s = exec c { s with pending := rest }) ∧
  ∀ s : State, s.pending = [] → step s = .next s

/-- No command stops the part, none touches the queue, and the clock, the model's own (log entry 2), never
runs back. -/
def Obligations.EveryCommandCompletes : Prop :=
  ∀ (c : Instr) (s : State),
    ∃ t, exec c s = .next t ∧ t.pending = s.pending ∧ s.now ≤ t.now

/-- What reset leaves: the entry image of every table at its power-on contents (R2, R43, R65, R102, R137,
R149, R152, R161, R177, R178), the mode CONFIG (R183), and the runtime of every block: R5, R46, R72, R82,
R104, R119, R140, R145, R149, R153, R155, R162, R171, R174, R181 and R184. The levels on the pins, 0, are
the model's choice (log entry 3). -/
def Obligations.ResetContents : Prop :=
  let s := State.reset
  (∀ p : PointNo, s.tables.image 1 p.val = some (List.replicate 35 0)) ∧
  (∀ n : NodeNo, s.tables.image 2 n.val = some [0, 0, 0, 0, 0, 0, 0, 0, 0, 0, 3, 3]) ∧
  (∀ e : DerivedNo, s.tables.image 3 e.val = some (List.replicate 26 0)) ∧
  (∀ e : InterlockNo, s.tables.image 4 e.val = some (List.replicate 39 0)) ∧
  (∀ f : Fin 8, s.tables.image 5 f.val = some (List.replicate 4 0)) ∧
  (∀ k : Fin 32, s.tables.image 6 k.val = some [255, 255]) ∧
  (∀ k : Fin 48, s.tables.image 7 k.val = some [255, 255]) ∧
  (∀ o : OutputNo, s.tables.image 8 o.val = some [0, 0, 0, 0, 0, 0, 255, 0]) ∧
  (∀ i : InputNo, s.tables.image 9 i.val = some [0]) ∧
  (∀ k : ChannelNo,
    s.tables.image 10 k.val = some [0, 0, 10, 3, 232, 0, 0, 0, 0, 0, 0, 0, 0, 0]) ∧
  s.tables.image 11 0 = some [0, 100, 1, 0, 50, 0, 50, 20, 20, 10, 0, 200, 25, 4, 1] ∧
  s.mode = .config ∧
  (∀ p : PointNo, s.points[p] =
    { value := 0, quality := .unset, lastRaw := 0, seed := false, hold := .stopped,
      forcedValue := 0, withheld := .absent, latch := false }) ∧
  s.forced = [] ∧ s.arbiter = [] ∧ s.bypasses = [] ∧ s.returns = [] ∧ s.tag = 0 ∧
  (∀ e : DerivedNo, s.trips[e] = false) ∧
  (∀ (e : InterlockNo) (k : TermNo), s.interlocks[e].terms[k] = ⟨.unsatisfied, .stopped⟩ ∧
    s.interlocks[e].permit = false ∧ s.interlocks[e].effective = false) ∧
  (∀ n : NodeNo, s.nodes[n] =
    { link := .absent, misses := 0, goods := 0, lossPending := false, lastSeq := 3,
      counters := Vector.replicate 8 0 }) ∧
  (∀ p, s.ports.get p =
    { rx := .seeking, content := [], bits := [], rxOpen := true, sending := none
      awaited := .nothing, counters := Vector.replicate 9 0, reinit := false }) ∧
  (∀ g, s.segs.get g =
    { work := .stopped, pollList := [], next := 0, forwardSent := false, window := .stopped
      windowExpired := false, turnaround := .stopped, overruns := 0, outbox := [], queue := []
      inFlight := none, answerWindow := .stopped, answerExpired := false }) ∧
  (∀ i : InputNo, s.inputs[i] = ⟨⟨false, false, .stopped⟩, 0⟩) ∧
  (∀ o : OutputNo, s.outputs[o] =
    { active := false, last := 0, train := .idle, period := .stopped, onTimer := .stopped
      ignored := 0 } ∧ s.outputOn o = false) ∧
  (∀ k : ChannelNo, s.channels[k] =
    { a := ⟨false, false, .stopped⟩, b := ⟨false, false, .stopped⟩, z := ⟨false, false, .stopped⟩
      count := 0, reached := false, position := 0, lastPair := (false, false), stage := .waiting
      timed := 0, timeout := .stopped, homed := false, sample := .stopped, errors := 0 }) ∧
  s.slot = 0 ∧ s.cycleTimer = .stopped ∧ s.lampIndex = 0 ∧ s.lampTimer = .stopped ∧
  s.startTimer = .stopped ∧ s.silenceTimer = .stopped ∧ s.exchangeTaken = false ∧
  s.plcSilent = false ∧ s.attention = 0 ∧ s.mask = BitVec.allOnes 12 ∧ s.service = none ∧
  s.waiting = none

/-- RESET_LINE, POWER_ON and POWER_LOSS leave the power-on contents, with the levels that stand on the
pins taken without debounce (R149, R162, R183); RESET_LINE_RELEASE only ends the hold. Without supply,
and while the line is held active, the part takes no other command but its pins' changes (R183, R84).
Those it follows at once, without debounce, edge or request, and a channel stands armed on them: the
model's choice (log entry 3). What a part without supply holds is the model's choice too (log entry 4). -/
def Obligations.ResetsAndSupply : Prop :=
  ∀ s : State,
    (∀ (c : Instr) (powered held : Bool),
      ((c, powered, held) = (.resetLine, s.powered, true) ∨ (c, powered, held) = (.powerOn, true, false) ∨
        (c, powered, held) = (.powerLoss, false, s.resetHeld)) →
      ∃ t, exec c s = .next t ∧
        t = { State.reset with
          pending := s.pending, now := s.now, powered := powered, resetHeld := held
          inputs := t.inputs, channels := t.channels } ∧
        (∀ i : InputNo,
          t.inputs[i] = ⟨⟨s.inputs[i].pin.line, s.inputs[i].pin.line, .stopped⟩, 0⟩) ∧
        ∀ k : ChannelNo, t.channels[k] =
          { a := ⟨s.channels[k].a.line, s.channels[k].a.line, .stopped⟩
            b := ⟨s.channels[k].b.line, s.channels[k].b.line, .stopped⟩
            z := ⟨s.channels[k].z.line, s.channels[k].z.line, .stopped⟩
            lastPair := (s.channels[k].a.line, s.channels[k].b.line) }) ∧
    exec .resetLineRelease s = .next { s with resetHeld := false } ∧
    (∀ c : Instr, s.alive = false →
      (match c with
        | .inputLevelChange .. | .captureLevelChange .. | .resetLine | .resetLineRelease | .powerOn
        | .powerLoss => False
        | _ => True) →
      exec c s = .next s) ∧
    (∀ (i : InputNo) (level : Bool) (time : Nat), s.alive = false →
      exec (.inputLevelChange i level time) s = .next { s with
        now := max s.now time
        inputs := s.inputs.set i ⟨⟨level, level, .stopped⟩, s.inputs[i].changes⟩ }) ∧
    ∀ (k : ChannelNo) (levels : List (CapInput × Bool)) (time : Nat), s.alive = false →
      (Instr.captureLevelChange k levels time).wellFormed = true →
      let r := s.channels[k]
      let line := fun (i : CapInput) (d : Debounced) => (levels.lookup i).getD d.line
      let follows := fun (i : CapInput) (d : Debounced) =>
        (⟨line i d, line i d, .stopped⟩ : Debounced)
      exec (.captureLevelChange k levels time) s = .next { s with
        now := max s.now time
        channels := s.channels.set k
          { a := follows .a r.a, b := follows .b r.b, z := follows .z r.z
            count := 0, reached := false, position := s.tables.channels[k].preset
            lastPair := (line .a r.a, line .b r.b), stage := .waiting, timed := 0
            timeout := .stopped, homed := false, sample := r.sample, errors := r.errors } }

/-! ## Invariants of every step -/

/-- The machine right after reset meets every invariant. -/
def Obligations.ResetMeetsInvariants : Prop :=
  listsBounded State.reset ∧ countersInRange State.reset ∧ missesBounded State.reset ∧
    quietInConfig State.reset ∧ tablesValid State.reset ∧ sourcesKept State.reset ∧
    outsFollow State.reset ∧ latchesSet State.reset ∧ derivedCurrent State.reset ∧
    permitsCurrent State.reset ∧ pollListsKept State.reset ∧ forcedShown State.reset ∧
    nodesFresh State.reset ∧ limitsKept State.reset ∧ requestsKept State.reset ∧
    receiversClosed State.reset

/-- Every step keeps the lists within their lengths and without repeats; the slot counter below the pattern
period and the lamp step index below the pattern length; each node's misses within its miss limit, and 0
unless the node is SUSPECT; and a closed receiver SEEKING, with nothing collected (R83). -/
def Obligations.CountsStayBounded : Prop :=
  ∀ s t : State, step s = .next t →
    (listsBounded s → listsBounded t) ∧ (countersInRange s → countersInRange t) ∧
      (missesBounded s → missesBounded t) ∧ (receiversClosed s → receiversClosed t)

/-- Every step keeps a part in CONFIG quiet: a part that comes into CONFIG is quiet, and one that stands
in it stays so, its cycle timer stopped among its counters (CountsStayBounded keeps those). -/
def Obligations.ConfigStaysQuiet : Prop :=
  ∀ s t : State, countersInRange s → quietInConfig s → step s = .next t → quietInConfig t

/-- Every step keeps the tables valid outside CONFIG, hold timers on NODE points and forces off OUT points
and unused ones, and the poll lists of enabled nodes of their segments in ascending order. Outside CONFIG
a NODE point stays GOOD or LIMITED only while its node is ONLINE or SUSPECT and its hold timer counts as
running (R9). That rests on what waits in the arbiter's list, which every step keeps too: an intake waits
only for a node that is ONLINE or SUSPECT, and stands before the loss of its node (R8, R18, R113; that a
loss overtakes no intake is log entry 9). -/
def Obligations.TablesAndSourcesKept : Prop :=
  ∀ s t : State, step s = .next t →
    (tablesValid s → tablesValid t) ∧ (quietInConfig s → sourcesKept s → sourcesKept t) ∧
      (quietInConfig s → pollListsKept s → pollListsKept t) ∧
      (quietInConfig s → requestsKept s → requestsKept t) ∧
      (tablesValid s → forcedShown s → requestsKept s → nodesFresh s → nodesFresh t)

/-- Every step leaves every OUT point at its feed's clamped value while it passes, and at its blocked
value while it does not; and it keeps every point other than a CNT point whose quality is not UNSET
within its limits (R4). -/
def Obligations.OutPointsFollow : Prop :=
  ∀ s t : State, tablesValid s → sourcesKept s → step s = .next t →
    (outsFollow s → outsFollow t) ∧ (limitsKept s → limitsKept t)

/-- Every step keeps the rearm latch set while the feed is active and the effective permit false. In a step
that begins and ends in RUN the latch of a REARM-guarded OUT point moves by the table of R74: a feed that
has changed, or whose guard's effective permit has, and is inactive clears it; a feed that becomes active
against a false permit sets it, and so does a permit that is lost under an active feed; in every other
case it stands. The latch of an OUT point with another guard or none stands (R73). -/
def Obligations.RearmLatchesStaySet : Prop :=
  ∀ s t : State, tablesValid s → sourcesKept s → step s = .next t →
    (latchesSet s → latchesSet t) ∧
    (s.mode = .run → t.mode = .run → ∀ p : PointNo, s.tables.source p = .feed →
      let feed := s.tables.points[p].refB
      let active := fun u : State => u.points[feed].quality ≠ .unset ∧ u.points[feed].value ≠ 0
      let stands := t.points[p].latch = s.points[p].latch
      (∀ e : InterlockNo, s.tables.points[p].guard = some e →
        s.tables.interlocks[e].mode = .rearm →
        let had := s.interlocks[e].effective
        let has := t.interlocks[e].effective
        let changed := s.differs t feed = true ∨ had ≠ has
        (¬ changed → stands) ∧
        (changed → ¬ active t → t.points[p].latch = false) ∧
        (¬ active s → active t → has = false → t.points[p].latch = true) ∧
        (¬ active s → active t → has = true → stands) ∧
        (active s → active t → had = true → has = false → t.points[p].latch = true) ∧
        (active s → active t → ¬ (had = true ∧ has = false) → stands)) ∧
      ((∀ e : InterlockNo, s.tables.points[p].guard = some e →
        s.tables.interlocks[e].mode ≠ .rearm) → stands))

/-- Every step keeps every forced point at quality FORCED (R21, R22), and with that leaves every derived
result in agreement with the members it is made from (R47, R55, R56). -/
def Obligations.DerivedStaysCurrent : Prop :=
  ∀ s t : State, step s = .next t → sourcesKept s → forcedShown s →
    (quietInConfig s → forcedShown t) ∧
      (tablesValid s → derivedCurrent s → derivedCurrent t)

/-- Every step leaves permits and effective permits in agreement with terms and bypasses. -/
def Obligations.PermitsStayCurrent : Prop :=
  ∀ s t : State, permitsCurrent s → step s = .next t → permitsCurrent t

/-- The mode changes only as the manual's table of mode transitions gives: CONFIG to STARTING by START,
STARTING to RUN by an entry-to-RUN grant, and to CONFIG by STOP, RESTART, the reset line or the supply.
The hand-over of a RESTART's waiting answer falls at an end of transmission of the Drive Port. -/
def Obligations.ModeTransitions : Prop :=
  ∀ (c : Instr) (s t : State), exec c s = .next t → t.mode ≠ s.mode →
    (s.mode = .config ∧ t.mode = .starting ∧ ∃ seq, c = .start seq) ∨
    (s.mode = .starting ∧ t.mode = .run ∧ c = .entryToRun) ∨
    (t.mode = .config ∧
      ((∃ seq, c = .stop seq) ∨ (∃ seq, c = .restart seq) ∨ c = .endOfTransmission .drive ∨
        c = .resetLine ∨ c = .powerOn ∨ c = .powerLoss))

/-- Requests are granted in the order in which they arrived (R18). Whatever a command does, those that
waited keep their order, and at most the one at the head is taken; only RESTART, its hand-over at an end
of transmission of the Drive Port, the reset line and the supply empty the list (R19). A request joins
the end. One that arrives at the instant of requests that wait joins those that arrived together with
it, by class and then by number (log entry 9 says which requests arrive together). -/
def Obligations.RequestsInOrder : Prop :=
  (∀ (c : Instr) (s t : State), exec c s = .next t →
    (∃ waited, (waited = s.arbiter ∨ ∃ r, s.arbiter = r :: waited) ∧ waited.Sublist t.arbiter) ∨
    (t.arbiter = [] ∧
      ((∃ seq, c = .restart seq) ∨ c = .endOfTransmission .drive ∨ c = .resetLine ∨ c = .powerOn ∨
        c = .powerLoss))) ∧
  (∀ (r : Request) (s : State),
    ((∀ t, r.instant? = some t → ∀ q ∈ s.arbiter, q.instant? ≠ some t) →
      request r s = { s with arbiter := s.arbiter ++ [r] }) ∧
    ∀ (t : Nat) (before same : List Request), r.instant? = some t → s.arbiter = before ++ same →
      (∀ q ∈ before, q.instant? ≠ some t) → (∀ q ∈ same, q.instant? = some t) →
      same.Pairwise (fun a b => requestBefore s.tables a b = true) →
      request r s = { s with
        arbiter := before ++ same.filter (fun q => requestBefore s.tables q r) ++
          r :: same.filter fun q => !requestBefore s.tables q r }) ∧
  ∀ ts : Tables,
    let order : Request → Nat := fun r => match r with
      | .holdExpiry .. | .driveSilence _ | .termHold .. | .bypassExpiry .. | .startTimer _ => 1
      | .replyIntake n _ _ | .nodeLoss n _ => if ts.nodes[n].segment = .spreader then 2 else 3
      | .exchange _ => 4
      | .lineLevel .. | .sample .. => 5
      | .entryToRun | .manage _ => 6
    let before := fun a b => requestBefore ts a b = true
    (∀ a b, order a < order b → before a b ∧ ¬ before b a) ∧
    (∀ p q d d', before (.holdExpiry p d) (.holdExpiry q d') ↔ p ≤ q) ∧
    (∀ e k e' k' d d', before (.termHold e k d) (.termHold e' k' d') ↔ e < e' ∨ e = e' ∧ k ≤ k') ∧
    (∀ e e' d d', before (.bypassExpiry e d) (.bypassExpiry e' d') ↔ e ≤ e') ∧
    (∀ n m i i', ts.nodes[n].segment = ts.nodes[m].segment →
      (before (.nodeLoss n i) (.nodeLoss m i') ↔ n ≤ m)) ∧
    (∀ i j l l' d d', before (.lineLevel i l d) (.lineLevel j l' d') ↔ i ≤ j) ∧
    ∀ j k m m' d d', before (.sample j m d) (.sample k m' d') ↔ j ≤ k

/-- In CONFIG the image is frozen: only START, WRITE ENTRY, CLEAR TABLE, RESTART, the reset line and the
supply change a point's value or quality (R19, R26, R27), and the request of a block that comes to its
grant is discarded (R19): an expiry, a reply, a loss, an accepted level, a sample and an entry to RUN.
(Of the PLC's own updates other statements say how they are refused and answered.) -/
def Obligations.ImageFrozenInConfig : Prop :=
  (∀ (c : Instr) (s t : State) (p : PointNo), s.mode = .config → exec c s = .next t →
    (t.points[p].value ≠ s.points[p].value ∨ t.points[p].quality ≠ s.points[p].quality) →
    (∃ seq, c = .start seq) ∨ (∃ seq table entry image, c = .writeEntry seq table entry image) ∨
    (∃ seq table, c = .clearTable seq table) ∨ (∃ seq, c = .restart seq) ∨
    c = .endOfTransmission .drive ∨ c = .resetLine ∨ c = .powerOn ∨ c = .powerLoss) ∧
  ∀ (c : Instr) (s : State) (r : Request) (rest : List Request), s.alive = true →
    s.mode = .config → s.arbiter = r :: rest → blockUpdate r = some c →
    exec c s = .next { s with arbiter := rest }

/-! ## Encodings -/

/-- What a sender puts on the line (R86, R87, R90) the receiver takes off it (R87 to R89): the fences,
every octet between them, and the quiet that follows; and the octets of a telegram, its check last, are
classified as that telegram (R90 to R93, R96). -/
def Obligations.TelegramCrossesLine : Prop :=
  (∀ octets : List Octet,
    lineEvents {} (lineBits octets) = .fence :: octets.map .octet ++ [.fence, .quiet]) ∧
  ∀ t : Telegram, t.payload.length ≤ 250 → classify t.octets = .ok t

/-- The octets of a MANAGE command are read as that command (R175). An empty payload and an unknown command
code give UNKNOWN_COMMAND, and operands shorter or longer than the command's give BAD_LENGTH, of WRITE
ENTRY those shorter than its fixed operands. -/
def Obligations.ManageRoundTrip : Prop :=
  (∀ c : Command, parseManage c.payload = (c.code, .ok c)) ∧
  parseManage [] = (0, .error .unknownCommand) ∧
  ∀ (code : Octet) (operands : List Octet),
    let lengths := [3, 3, 1, 0, 0, 0, 6, 2, 0, 3, 1, 3, 2, 2, 1, 0]
    (code = 0 ∨ 16 < code.toNat →
      parseManage (code :: operands) = (code, .error .unknownCommand)) ∧
    ∀ n, lengths[code.toNat - 1]? = some n → code ≠ 0 →
      (if code = 2 then operands.length < n else operands.length ≠ n) →
      parseManage (code :: operands) = (code, .error .badLength)

/-- The image written to an entry is the image read back, and no other entry's image changes (R176): for
every table, every entry of it, and every image whose fields are in range. -/
def Obligations.EntryImageRoundTrip : Prop :=
  ∀ (ts : Tables) (t e : Nat) (image : List Octet),
    e < entriesOf t → image.length = imageLength (fieldsOf t) →
    firstBadField 1 (fieldsOf t) (readImage (fieldsOf t) image) = none →
    let written := ts.setValues t e (readImage (fieldsOf t) image)
    written.image t e = some image ∧
      ∀ t' e', (t', e') ≠ (t, e) → written.image t' e' = ts.image t' e'

/-! ## Values and tables -/

/-- How point values are made. The division by 256 gives the nearest whole number, halves away from zero,
with the sign of the dividend (R35). The stale policy by the quality before: every row of its table, with
the hold timer as it was (R7). A CNT intake that is not a seeding changes the value by exactly new raw
minus last raw modulo 65536, modulo 2^32; it keeps the raw word, gives GOOD, and clamps nothing (R38).
The quality of a passing OUT point, by its feed's quality and the clamping: every row of its table; its
value is its feed's, clamped into its own limits (R61). -/
def Obligations.PointValueRules : Prop :=
  (∀ p : Int,
    (divide256 p).natAbs = (p.natAbs + 128) / 256 ∧
      (divide256 p ≠ 0 → (divide256 p).sign = p.sign) ∧ divide256 (-p) = -divide256 p ∧
      2 * (256 * divide256 p - p).natAbs ≤ 256 ∧
      ((256 * divide256 p - p).natAbs = 128 → p.natAbs ≤ (256 * divide256 p).natAbs)) ∧
  (∀ (c : PointCfg) (rt : PointRt),
    (rt.quality = .unset ∧ c.policy = .hold → applyStale c rt = rt) ∧
    ((rt.quality = .good ∨ rt.quality = .limited) ∧ c.policy = .hold →
      applyStale c rt = { rt with quality := .stale }) ∧
    (rt.quality = .stale ∧ c.policy = .hold → applyStale c rt = rt) ∧
    (rt.quality ≠ .substituted ∧ rt.quality ≠ .forced ∧ c.policy = .safe →
      applyStale c rt = { rt with value := c.safeValue, quality := .substituted }) ∧
    (rt.quality = .substituted → applyStale c rt = rt) ∧
    (rt.quality = .forced →
      (rt.withheld = .absent → applyStale c rt = rt) ∧
      ∀ r, rt.withheld = .fresh r ∨ rt.withheld = .aged r →
        applyStale c rt = { rt with withheld := .aged r })) ∧
  (∀ (c : PointCfg) (raw : Word16) (rt : PointRt),
    c.form = .cnt → c.source = .node → rt.seed = true →
    ∃ v : Word32, intake c false (.word raw) rt =
        { rt with value := v, lastRaw := raw, quality := .good } ∧
      (v.toNat : Int) = ((rt.value.toNat : Int) + ((raw.toNat : Int) - rt.lastRaw.toNat) % 65536) %
        4294967296) ∧
  ∀ (s : State) (p : PointNo),
    let c := s.tables.points[p]
    let v := s.reading c.refB
    let bent := ∃ lo hi, c.limits = some (lo, hi) ∧ (v < lo ∨ hi < v)
    c.source = .feed → s.passes p →
    let got := (outValue s c s.points[p].latch).2
    (∀ lo hi, c.limits = some (lo, hi) → (outValue s c s.points[p].latch).1 =
      if v < lo then BitVec.ofInt 32 lo else if hi < v then BitVec.ofInt 32 hi
      else BitVec.ofInt 32 v) ∧
    (s.points[c.refB].quality = .good ∨ s.points[c.refB].quality = .forced →
      (bent → got = .limited) ∧ (¬ bent → got = .good)) ∧
    (s.points[c.refB].quality = .limited → got = .limited) ∧
    (s.points[c.refB].quality = .stale → got = .stale) ∧
    (s.points[c.refB].quality = .substituted → got = .substituted)

/-- What is read from the octets of a reply, an EXCHANGE or a sample, and what is sent to nodes and to the
PLC. A slot of a reply (R29); a raw value converted by the form of its point (R30 to R36); the octets of a
POLL, on tables that pass validation (R63, R105); the points of the write list and the emit list (R178);
the values of an EXCHANGE, one for each two octets, and the octets of a field, high octet first (R1, R30,
R172); the codes of qualities, link states and modes (R6, R108, R173); the attention summary and the number
of enabled nodes not ONLINE in an EXCHANGE ANSWER (R173). -/
def Obligations.ValuesReadAndSent : Prop :=
  (∀ (n : NodeCfg) (payload : List Octet),
    (∀ k, k < 64 →
      replySlot n payload k = .bit ((payload.getD (1 + k / 8) 0).getLsbD (k % 8))) ∧
    ∀ j, j < 8 → ∃ w : Word16, replySlot n payload (256 + j) = .word w ∧
      w.toNat = 256 * (payload.getD (1 + (n.inputBits + 7) / 8 + 2 * j) 0).toNat +
        (payload.getD (1 + (n.inputBits + 7) / 8 + 2 * j + 1) 0).toNat) ∧
  (∀ (c : PointCfg) (w : Word16) (m : Word32) (b : Bool),
    let clamped := fun v : Int =>
      if v < c.low.toInt then (c.low, Quality.limited)
      else if c.high.toInt < v then (c.high, .limited) else (BitVec.ofInt 32 v, .good)
    let scaled := fun raw : Int => divide256 ((raw - c.zero.toInt) * c.gain.toInt)
    (c.form = .bin → convert c (.bit b) = (wordOfBool (b != c.invert), .good) ∧
      convert c (.word w) = (wordOfBool (decide (w ≠ 0) != c.invert), .good)) ∧
    (c.form = .word → convert c (.word w) = clamped w.toNat) ∧
    (c.form = .ana → convert c (.word w) = clamped (scaled w.toInt) ∧
      convert c (.measure m) = clamped (scaled m.toInt)) ∧
    ∀ raw, anaScaled c raw = scaled raw) ∧
  (∀ (s : State) (n : NodeNo), validate s.tables = none →
    let c := s.tables.nodes[n]
    let octets := (c.outputBits + 7) / 8
    let drives := fun (p : PointNo) (kind : TargetKind) (k : Nat) =>
      s.tables.source p = .feed ∧ s.tables.points[p].targetKind = kind ∧
        s.tables.points[p].targetA = n ∧ s.tables.points[p].targetB.val = k
    let word := fun j =>
      [(pollPayload s n).getD (octets + 2 * j) 0, (pollPayload s n).getD (octets + 2 * j + 1) 0]
    (pollPayload s n).length = octets + 2 * c.outputWords ∧
    (∀ k, k < 8 * octets →
      (((pollPayload s n).getD (k / 8) 0).getLsbD (k % 8) = true ↔
        k < c.outputBits ∧ ∃ p, drives p .nodeOutBit k ∧ s.points[p].value ≠ 0)) ∧
    ∀ j, j < c.outputWords →
      (∀ p, drives p .nodeOutWord j → word j = octets16 (s.points[p].value.setWidth 16)) ∧
      ((∀ p, ¬ drives p .nodeOutWord j) → word j = [0, 0])) ∧
  (∀ (len : Nat) (list : Vector (Option PointNo) len) (k : Nat) (h : k < len),
    ((∀ j, (hj : j ≤ k) → list[j] ≠ none) → (listed list)[k]? = list[k]) ∧
    (list[k] = none → (listed list).length ≤ k)) ∧
  (∀ (payload : List Octet) (k : Nat), 2 * k + 1 < payload.length →
    (words16 payload)[k]?.map BitVec.toNat =
      some (256 * (payload.getD (2 * k) 0).toNat + (payload.getD (2 * k + 1) 0).toNat)) ∧
  (∀ payload : List Octet, (words16 payload).length = payload.length / 2) ∧
  (∀ w : Word16, (octets16 w).map BitVec.toNat = [w.toNat / 256, w.toNat % 256]) ∧
  (∀ w : Word32, (octets32 w).map BitVec.toNat =
    [w.toNat / 16777216, w.toNat / 65536 % 256, w.toNat / 256 % 256, w.toNat % 256]) ∧
  ([Quality.unset, .good, .limited, .stale, .substituted, .forced].map Quality.code =
      [0, 1, 2, 3, 4, 5] ∧
    [LinkState.absent, .silent, .online, .suspect, .lost, .rejoining].map LinkState.code =
      [0, 1, 2, 3, 4, 5] ∧
    [Mode.config, .starting, .run].map Mode.code = [0, 1, 2]) ∧
  ∀ s : State,
    (s.attentionSummary = true ↔
      ∃ k, k < 12 ∧ s.attention.getLsbD k = true ∧ s.mask.getLsbD k = true) ∧
    notOnline s = (List.finRange 16).countP fun n =>
      s.tables.nodes[n].enabled && decide (s.nodes[n].link ≠ .online)

/-- START validation (R179): it refuses exactly what `Tables.fails` lists, check by check (R2 to R4, R44,
R45, R59, R66, R103, R132, R149, R152, R161, R178), with the first failure by table, entry and check code.
Tables that pass hold what other statements rest on: every used derived entry is bound to a DERIVED
point, the write list holds PLC points and each once, a feed and a guard are used, and no local output
has two OUT points. That a record of source NONE is not checked, and an untargeted TRAIN output is, are
the model's choices (log entries 25 and 24), and so are which code is reported for a record with several
faults and that a form or a hold gap is judged only where its reference is sound (log entry 13,
DEDUCED). -/
def Obligations.ValidationRefuses : Prop :=
  ∀ ts : Tables,
    (validate ts = none ↔ ∀ table entry code, ¬ ts.fails table entry code) ∧
    (∀ f, validate ts = some f ↔
      ts.fails f.table f.entry f.code ∧
        ∀ table entry code, ts.fails table entry code →
          f.table < table ∨
            (f.table = table ∧ (f.entry < entry ∨ (f.entry = entry ∧ f.code ≤ code)))) ∧
    (validate ts = none →
      ts.resultsBound ∧ (listed ts.writeList).Nodup ∧
      (∀ p, ts.source p = .plc ↔ p ∈ listed ts.writeList) ∧
      (∀ p, ts.source p = .derived → ts.derived[ts.points[p].refA].kind ≠ .unused ∧
        ts.derived[ts.points[p].refA].result = p) ∧
      (∀ p, ts.source p = .feed →
        ts.source ts.points[p].refB ≠ .unused ∧ ts.source ts.points[p].refB ≠ .feed ∧
          ∀ e, ts.points[p].guard = some e → ts.interlocks[e].mode ≠ .unused) ∧
      ∀ (p q : PointNo) (o : OutputNo), ts.points[p].localTarget = some o →
        ts.points[q].localTarget = some o → p = q)

/-- What computing a derived entry gives. A SUM or RATIO with an UNSET member leaves its result's value and
is UNSET; else its value is the exact weighted sum, or 1000 times the quotient rounded to nearest with
halves away from zero, or by a zero denominator a limit, clamped into the result's limits, with the
worst quality of its members or LIMITED for the clamping. A TRIP keeps its state between its levels, and
shows its fail value for an input that is not trusted. The result point takes what is given unless it is
forced. -/
def Obligations.DerivedResults : Prop :=
  ∀ (s : State) (e : DerivedNo),
    let d := s.tables.derived[e]
    let result := s.points[d.result]
    let quality := fun k : Fin 4 => s.points[d.members[k].point].quality
    let value := fun k : Fin 4 => s.reading d.members[k].point
    let has := fun q : Quality => ∃ k : Fin 4, k.val < d.count.val ∧ quality k = q
    let gives := fun (lo hi v : Int) (bent : Prop) => ∃ q,
      computeDerived s e =
        (some (if v < lo then BitVec.ofInt 32 lo else if hi < v then BitVec.ofInt 32 hi
          else BitVec.ofInt 32 v, q), s.trips[e]) ∧
      (has .substituted → q = .substituted) ∧
      (¬ has .substituted → has .stale → q = .stale) ∧
      (¬ has .substituted → ¬ has .stale → (has .limited ∨ bent ∨ v < lo ∨ hi < v) → q = .limited) ∧
      (¬ has .substituted → ¬ has .stale → ¬ (has .limited ∨ bent ∨ v < lo ∨ hi < v) → q = .good)
    (d.kind = .sum ∨ d.kind = .ratio → has .unset →
      computeDerived s e = (some (result.value, .unset), s.trips[e])) ∧
    (∀ lo hi : Int, s.tables.points[d.result].limits = some (lo, hi) → ¬ has .unset →
      (d.kind = .sum → gives lo hi
        (((List.finRange 4).filter fun k => decide (k.val < d.count.val)).map fun k =>
          value k * d.members[k].weight).sum False) ∧
      (d.kind = .ratio → d.count = 2 →
        let n := value 0
        let m := value 1
        (m ≠ 0 → ∀ v : Int, v.natAbs = (2 * (1000 * n.natAbs) + m.natAbs) / (2 * m.natAbs) →
          (v ≠ 0 → (v < 0 ↔ ¬ (n < 0 ↔ m < 0))) → gives lo hi v False) ∧
        (m = 0 → (0 < n → lo ≤ hi → gives lo hi hi True) ∧ (n < 0 → lo ≤ hi → gives lo hi lo True) ∧
          (n = 0 → gives lo hi 0 True)))) ∧
    (d.kind = .trip →
      let trips := fun b : Bool =>
        computeDerived s e = (some (wordOfBool b, .good), b)
      let up := d.setLevel.toInt
      let down := d.resetLevel.toInt
      (quality 0 = .good ∨ quality 0 = .limited ∨ quality 0 = .forced →
        (d.falling = false → (up ≤ value 0 → trips true) ∧
          (value 0 < up → value 0 ≤ down → trips false) ∧
          (down < value 0 → value 0 < up → trips s.trips[e])) ∧
        (d.falling = true → (value 0 ≤ up → trips true) ∧
          (up < value 0 → down ≤ value 0 → trips false) ∧
          (up < value 0 → value 0 < down → trips s.trips[e]))) ∧
      (quality 0 = .unset ∨ quality 0 = .stale ∨ quality 0 = .substituted →
        computeDerived s e = (some (wordOfBool d.failValue, .substituted), d.failValue))) ∧
    ∀ v q b, computeDerived s e = (some (v, q), b) →
      runDerived e s = { s with
        trips := s.trips.set e b
        points := if s.isForced d.result then s.points
          else s.points.set d.result { result with value := v, quality := q } }

/-- The evaluation of an interlock entry: when a used term is satisfied, and how it moves; its hold timer
runs out on the model's clock (log entry 2). -/
def Obligations.TermMoves : Prop :=
  ∀ (s : State) (c : InterlockCfg) (rt : InterlockRt) (k : TermNo),
    let t := c.terms[k]
    let q := s.points[t.point].quality
    let v : Int := if s.tables.points[t.point].form = .cnt then (s.points[t.point].value.toNat : Int)
      else s.points[t.point].value.toInt
    let satisfied := (q = .good ∨ q = .limited ∨ q = .forced) ∧
      match t.test with
      | .isOne => v ≠ 0
      | .isZero => v = 0
      | .atLeast => t.level.toInt ≤ v
      | .atMost => v ≤ t.level.toInt
    let was := rt.terms[k]
    let got := (moveTerms s c rt).terms[k]
    (c.count.val ≤ k.val → got = was) ∧
    (k.val < c.count.val →
      (¬ satisfied → got = ⟨.unsatisfied, .stopped⟩) ∧
      (satisfied → was.state = .unsatisfied → t.hold = 0 → got = ⟨.held, .stopped⟩) ∧
      (satisfied → was.state = .unsatisfied → 0 < t.hold →
        got = ⟨.timing, .running (s.now + t.hold * 10 * Config.millisecond)⟩) ∧
      (satisfied → was.state ≠ .unsatisfied → got = was))

/-- The hold gap of a mask: every set slot is followed by one within the gap, going round the pattern, and
some set slot by none sooner; with no slot set it is the pattern period. A hold limit meets it when it
is at least the gap and one more cycle, both in 0.1 ms. -/
def Obligations.HoldGapIsLargestDistance : Prop :=
  ∀ (mask : Word16) (p : Nat), 1 ≤ p → p ≤ 16 →
    ((∀ b, b < p → mask.getLsbD b = false) → holdGap mask p = p) ∧
    (∀ (g : GlobalCfg) (holdLimit : Nat), g.patternPeriod = p →
      (meetsHoldGap g mask holdLimit = true ↔
        (holdGap mask p + 1) * g.cyclePeriod ≤ 10 * holdLimit)) ∧
    ((∃ b, b < p ∧ mask.getLsbD b = true) →
      (∀ b, b < p → mask.getLsbD b = true →
        ∃ k, 1 ≤ k ∧ k ≤ holdGap mask p ∧ mask.getLsbD ((b + k) % p) = true) ∧
      ∃ b, b < p ∧ mask.getLsbD b = true ∧ 1 ≤ holdGap mask p ∧ holdGap mask p ≤ p ∧
        ∀ k, 1 ≤ k → k < holdGap mask p → mask.getLsbD ((b + k) % p) = false)

/-! ## Commands of the PLC that are answered at once -/

/-- READ ENTRY (R176): the entry's image, or why there is none. READ STATUS (R185): each part's octets in
order, and nothing above part 4. Neither changes anything else. -/
def Obligations.ReadsAnswer : Prop :=
  (∀ (s : State) (seq : Seq) (table : Octet) (entry : Word16), s.canServe →
    ((table.toNat < 1 ∨ 11 < table.toNat) →
      exec (.readEntry seq table entry) s = .next (managed s seq 1 [2] s)) ∧
    (1 ≤ table.toNat ∧ table.toNat ≤ 11 → entriesOf table.toNat ≤ entry.toNat →
      exec (.readEntry seq table entry) s = .next (managed s seq 1 [3] s)) ∧
    (1 ≤ table.toNat ∧ table.toNat ≤ 11 → entry.toNat < entriesOf table.toNat →
      ∃ image, s.tables.image table.toNat entry.toNat = some image ∧
        image.length = imageLength (fieldsOf table.toNat) ∧
        exec (.readEntry seq table entry) s =
          .next (managed s seq 1 (0 :: table :: octets16 entry ++ image) s))) ∧
  ∀ (s : State) (seq : Seq) (part : Octet), s.canServe →
    (4 < part.toNat → exec (.readStatus seq part) s = .next (managed s seq 15 [4, 1] s)) ∧
    ((part = 0 → exec (.readStatus seq part) s =
        .next (managed s seq 15
          ([0, 0, s.mode.code] ++ octets16 (s.attention.setWidth 16) ++
            octets16 (s.mask.setWidth 16) ++
            [(if s.plcSilent then (1 : Octet) else 0) + (if s.channels[0].homed then 2 else 0)] ++
            s.nodes.toList.map (fun r => r.link.code) ++
            BitVec.ofNat 8 s.bypasses.length :: s.bypasses.flatMap (fun b =>
              BitVec.ofNat 8 b.entry.val ::
                octets16 (BitVec.ofNat 16 ((b.timer.left s.now + 15999999) / 16000000))) ++
            BitVec.ofNat 8 s.forced.length :: s.forced.flatMap (fun p =>
              octets16 (BitVec.ofNat 16 p.val) ++ octets32 s.points[p].forcedValue) ++
            octets16 s.segs.spreader.overruns ++ octets16 s.segs.cab.overruns ++
            octets16 s.channels[0].errors ++ octets16 s.channels[1].errors ++
            octets16 s.channels[2].errors ++ octets16 s.channels[3].errors) s)) ∧
      (part = 1 → exec (.readStatus seq part) s =
        .next (managed s seq 15
          ([0, 1] ++ (s.ports.spreader.counters.toList ++ s.ports.cab.counters.toList ++
            s.ports.drive.counters.toList).flatMap octets16) s)) ∧
      (part = 2 → exec (.readStatus seq part) s =
        .next (managed s seq 15
          ([0, 2] ++ (s.nodes.toList.take 8).flatMap fun r => r.counters.toList.flatMap octets16) s)) ∧
      (part = 3 → exec (.readStatus seq part) s =
        .next (managed s seq 15
          ([0, 3] ++ (s.nodes.toList.drop 8).flatMap fun r => r.counters.toList.flatMap octets16) s)) ∧
      (part = 4 → exec (.readStatus seq part) s =
        .next (managed s seq 15
          ([0, 4] ++ (s.inputs.toList.map InputRt.changes ++
            s.outputs.toList.map OutputRt.ignored).flatMap octets16) s)))

/-- WRITE ENTRY in CONFIG with every field in range (R176): the entry takes the image, no other entry
changes, and the runtime that belongs to the entry is initialised (R5, R46, R72, R104, R153, R162). CLEAR
TABLE in CONFIG (R176): every entry of the table goes to its power-on contents and its runtime with it;
the other tables stand. Each answer goes to the PLC address that stood before the command: for CLEAR TABLE
of GLOBAL the model's reading, as R177 says so of WRITE ENTRY alone (log entry 14, DEDUCED). -/
def Obligations.TableWritesStore : Prop :=
  (∀ (s : State) (seq : Seq) (table : Octet) (entry : Word16) (image : List Octet),
    s.canServe → s.mode = .config →
    entry.toNat < entriesOf table.toNat → image.length = imageLength (fieldsOf table.toNat) →
    firstBadField 1 (fieldsOf table.toNat) (readImage (fieldsOf table.toNat) image) = none →
    ∃ w, exec (.writeEntry seq table entry image) s = .next (managed s seq 2 [0] w) ∧
      w = { s with
        tables := w.tables, points := w.points, nodes := w.nodes, trips := w.trips
        interlocks := w.interlocks, outputs := w.outputs, channels := w.channels } ∧
      w.tables.image table.toNat entry.toNat = some image ∧
      (∀ t e, (t, e) ≠ (table.toNat, entry.toNat) → w.tables.image t e = s.tables.image t e) ∧
      (∀ p : PointNo, w.points[p] =
        if table = 1 ∧ p.val = entry.toNat then
          { value := if w.tables.source p = .feed then w.tables.points[p].blocked else 0 }
        else s.points[p]) ∧
      (∀ n : NodeNo, w.nodes[n] = if table = 2 ∧ n.val = entry.toNat then {} else s.nodes[n]) ∧
      (∀ d : DerivedNo, w.trips[d] =
        if table = 3 ∧ d.val = entry.toNat then w.tables.derived[d].failValue else s.trips[d]) ∧
      (∀ e : InterlockNo,
        w.interlocks[e] = if table = 4 ∧ e.val = entry.toNat then {} else s.interlocks[e]) ∧
      (∀ o : OutputNo, w.outputs[o] =
        if table = 8 ∧ o.val = entry.toNat then { ignored := s.outputs[o].ignored }
        else s.outputs[o]) ∧
      ∀ k : ChannelNo, w.channels[k] =
        if table = 10 ∧ k.val = entry.toNat then
          { a := ⟨s.channels[k].a.line, s.channels[k].a.line, .stopped⟩
            b := ⟨s.channels[k].b.line, s.channels[k].b.line, .stopped⟩
            z := ⟨s.channels[k].z.line, s.channels[k].z.line, .stopped⟩
            lastPair := (s.channels[k].a.line, s.channels[k].b.line)
            position := w.tables.channels[k].preset }
        else s.channels[k]) ∧
  ∀ (s : State) (seq : Seq) (table : Octet),
    s.canServe → s.mode = .config → 1 ≤ table.toNat → table.toNat ≤ 11 →
    ∃ w, exec (.clearTable seq table) s = .next (managed s seq 3 [0] w) ∧
      w = { s with
        tables := w.tables, points := w.points, nodes := w.nodes, trips := w.trips
        interlocks := w.interlocks, outputs := w.outputs, channels := w.channels } ∧
      (∀ t e, w.tables.image t e =
        if t = table.toNat then State.reset.tables.image t e else s.tables.image t e) ∧
      w.points = (if table = 1 then Vector.replicate 384 {} else s.points) ∧
      w.nodes = (if table = 2 then Vector.replicate 16 {} else s.nodes) ∧
      w.trips = (if table = 3 then Vector.replicate 32 false else s.trips) ∧
      w.interlocks = (if table = 4 then Vector.replicate 48 {} else s.interlocks) ∧
      (∀ o : OutputNo, w.outputs[o] =
        if table = 8 then { ignored := s.outputs[o].ignored } else s.outputs[o]) ∧
      ∀ k : ChannelNo, w.channels[k] =
        if table = 10 then
          { a := ⟨s.channels[k].a.line, s.channels[k].a.line, .stopped⟩
            b := ⟨s.channels[k].b.line, s.channels[k].b.line, .stopped⟩
            z := ⟨s.channels[k].z.line, s.channels[k].z.line, .stopped⟩
            lastPair := (s.channels[k].a.line, s.channels[k].b.line) }
        else s.channels[k]

/-- What WRITE ENTRY and CLEAR TABLE refuse, in the order of their checks (R176): the mode, the table, the
entry, the length of the image, then the first field out of range by its number. Nothing changes. R176 gives
this order for WRITE ENTRY; that CLEAR TABLE too judges the mode before the table is the model's reading of
R175 (log entry 26, DEDUCED). -/
def Obligations.TableWritesRefused : Prop :=
  ∀ (s : State) (seq : Seq) (table : Octet) (entry : Word16) (image : List Octet), s.canServe →
    let fields := fieldsOf table.toNat
    let refused := fun result => exec (.writeEntry seq table entry image) s =
      .next (managed s seq 2 result s)
    let known := 1 ≤ table.toNat ∧ table.toNat ≤ 11
    (s.mode ≠ .config →
      refused [1] ∧ exec (.clearTable seq table) s = .next (managed s seq 3 [1] s)) ∧
    (s.mode = .config → ¬ known →
      refused [2] ∧ exec (.clearTable seq table) s = .next (managed s seq 3 [2] s)) ∧
    (s.mode = .config → known → entriesOf table.toNat ≤ entry.toNat → refused [3]) ∧
    (s.mode = .config → known → entry.toNat < entriesOf table.toNat →
      image.length ≠ imageLength fields → refused [5]) ∧
    ∀ (k : Nat) (f : Field), s.mode = .config → known → entry.toNat < entriesOf table.toNat →
      image.length = imageLength fields → fields[k]? = some f →
      f.accepts ((readImage fields image).getD k 0) = false →
      (∀ j g, j < k → fields[j]? = some g → g.accepts ((readImage fields image).getD j 0) = true) →
      refused [4, BitVec.ofNat 8 (k + 1)]

/-- RESTART in any mode with the Drive Port free (R183): the DONE answer is on its way out, every table,
the return queue and the tag counter are kept, and the rest is as after a reset (R82, R119); outside CONFIG
the forwards become DROPPED records and SAFE goes to both segments, at once or behind the telegram that is
still going out (R84, R135). While that telegram goes out its port's record stands re-initialised already
but for it, a POLL or a forward marked abandoned: the model's reading (log entry 21, DEDUCED). The mark
`reinit` that the re-initialisation is due at its end is a field of the model's own (log entry 20, DESIGN
CHOICE). Of what waits for a transmitter a SAFE of an earlier STOP is kept, and the rest dropped: the
model's reading of R134 (log entry 8, DEDUCED). -/
def Obligations.RestartReinitialises : Prop :=
  ∀ (s : State) (seq : Seq), s.canServe → s.returns.length ≤ 4 →
    ∃ t, exec (.restart seq) s = .next t ∧
      t = { State.reset with
        pending := s.pending, now := s.now, powered := s.powered, resetHeld := s.resetHeld
        tables := s.tables, tag := s.tag, points := t.points, trips := t.trips
        returns := t.returns, inputs := t.inputs, channels := t.channels
        ports := t.ports, segs := t.segs } ∧
      (∀ p : PointNo, t.points[p] =
        { value := if s.tables.source p = .feed then s.tables.points[p].blocked else 0 }) ∧
      (∀ e : DerivedNo, t.trips[e] = s.tables.derived[e].failValue) ∧
      (∀ i : InputNo,
        t.inputs[i] = ⟨⟨s.inputs[i].pin.line, s.inputs[i].pin.line, .stopped⟩, 0⟩) ∧
      (∀ k : ChannelNo, t.channels[k] =
        { a := ⟨s.channels[k].a.line, s.channels[k].a.line, .stopped⟩
          b := ⟨s.channels[k].b.line, s.channels[k].b.line, .stopped⟩
          z := ⟨s.channels[k].z.line, s.channels[k].z.line, .stopped⟩
          lastPair := (s.channels[k].a.line, s.channels[k].b.line)
          position := s.tables.channels[k].preset }) ∧
      t.ports.drive =
        { rxOpen := false, reinit := true
          sending := some ⟨⟨s.tables.global.plcAddress, Config.junction, .manageAnswer, seq, [6, 0]⟩,
            .answer⟩ } ∧
      (s.mode = .config → t.returns = s.returns) ∧
      (s.mode ≠ .config →
        let all := s.returns ++
          (s.segs.spreader.unended ++ s.segs.cab.unended).map fun f => ⟨f.tag, .dropped⟩
        t.returns = all.drop (all.length - 4)) ∧
      ∀ g,
        let initial : PortRt :=
          { rx := .seeking, content := [], bits := [], rxOpen := true, sending := none
            awaited := .nothing, counters := Vector.replicate 9 0, reinit := false }
        let sending := (s.ports.get (portOf g)).sending
        let waits := (s.segs.get g).outbox.filter fun o => decide (o.owner = .safe)
        let stopped := fun outbox => t.segs.get g =
          { work := .stopped, pollList := [], next := 0, forwardSent := false, window := .stopped
            windowExpired := false, turnaround := .stopped, overruns := 0, outbox := outbox
            queue := [], inFlight := none, answerWindow := .stopped, answerExpired := false }
        (sending = none → t.ports.get (portOf g) =
          if s.mode = .config then initial
          else { initial with rxOpen := false, sending := some safeTelegram }) ∧
        (∀ o, sending = some o → t.ports.get (portOf g) =
          { initial with rxOpen := false, sending := some o.abandon, reinit := true }) ∧
        (s.mode = .config ∨ sending = none → stopped waits) ∧
        (s.mode ≠ .config → sending ≠ none → stopped (waits ++ [safeTelegram]))

/-- SET MASK (R133): its checks in their order, and on DONE the entry's poll mask and nothing else. -/
def Obligations.SetMaskChecked : Prop :=
  ∀ (s : State) (seq : Seq) (node : Octet) (mask : Word16), s.canServe →
    (16 ≤ node.toNat → exec (.setMask seq node mask) s = .next (managed s seq 12 [3] s)) ∧
    ∀ n : NodeNo, node.toNat = n.val →
      let slotless := s.tables.nodes[n].enabled = true ∧
        ∀ b, b < s.tables.global.patternPeriod → mask.getLsbD b = false
      let short := fun p : PointNo =>
        s.tables.source p = .node ∧ s.tables.points[p].refA.val = n.val ∧
          10 * s.tables.points[p].holdLimit <
            (holdGap mask s.tables.global.patternPeriod + 1) * s.tables.global.cyclePeriod
      (slotless → exec (.setMask seq node mask) s =
        .next (managed s seq 12 [6, 2, 0, node, 8] (setFlag .checkRefused s))) ∧
      (¬ slotless → ∀ p, short p → (∀ q, q < p → ¬ short q) →
        exec (.setMask seq node mask) s =
          .next (managed s seq 12 ([6, 1] ++ octets16 (BitVec.ofNat 16 p.val) ++ [5])
            (setFlag .checkRefused s))) ∧
      (¬ slotless → (∀ p, ¬ short p) →
        exec (.setMask seq node mask) s =
          .next (managed s seq 12 [0] { s with
            tables := { s.tables with
              nodes := s.tables.nodes.set n { s.tables.nodes[n] with pollMask := mask } } }))

/-- SET ATTENTION MASK and CLEAR ATTENTION (R184), of whose operands bits 12 to 15 are not read; and RESET
COUNTERS (R117, R185): every statistics counter is 0, but POLLS SENT is 1 for a node whose exchange is
in flight. Nothing else changes. -/
def Obligations.AttentionAndCounters : Prop :=
  ∀ (s : State) (seq : Seq), s.canServe →
    (∀ word : Word16, ∃ w, exec (.setAttentionMask seq word) s = .next (managed s seq 13 [0] w) ∧
      w = { s with mask := w.mask } ∧ ∀ k, k < 12 → w.mask.getLsbD k = word.getLsbD k) ∧
    (∀ word : Word16, ∃ w, exec (.clearAttention seq word) s = .next (managed s seq 14 [0] w) ∧
      w = { s with attention := w.attention } ∧
      ∀ k, k < 12 → w.attention.getLsbD k = (s.attention.getLsbD k && !word.getLsbD k)) ∧
    ∃ w, exec (.resetCounters seq) s = .next (managed s seq 16 [0] w) ∧
      w = { s with
        ports := w.ports, nodes := w.nodes, segs := w.segs, inputs := w.inputs
        outputs := w.outputs, channels := w.channels } ∧
      (∀ p, w.ports.get p = { s.ports.get p with counters := Vector.replicate 9 0 }) ∧
      (∀ n : NodeNo, ∃ counters, w.nodes[n] = { s.nodes[n] with counters := counters } ∧
        ∀ k : Fin 8,
          (k = 0 ∧ (∃ g, (s.segs.get g).work = .exchange n true) → counters[k] = 1) ∧
          (¬ (k = 0 ∧ ∃ g, (s.segs.get g).work = .exchange n true) → counters[k] = 0)) ∧
      (∀ g, w.segs.get g = { s.segs.get g with overruns := 0 }) ∧
      (∀ i : InputNo, w.inputs[i] = { s.inputs[i] with changes := 0 }) ∧
      (∀ o : OutputNo, w.outputs[o] = { s.outputs[o] with ignored := 0 }) ∧
      ∀ k : ChannelNo, w.channels[k] = { s.channels[k] with errors := 0 }

/-- EXCHANGE (R172, R173): taken in STARTING and RUN when its length is twice the write list's, and then it
requests its update; any other is answered at once with values taken clear. The summary and the count in
the answer are those of the manual by another statement of this list (ValuesReadAndSent). -/
def Obligations.ExchangeTakenOrAnswered : Prop :=
  ∀ (s : State) (seq : Seq) (payload : List Octet), s.canServe →
    let fits := s.mode ≠ .config ∧ payload.length = 2 * (listed s.tables.writeList).length
    (fits → exec (.exchange seq payload) s =
      .next { s with
        service := some ⟨⟨.exchange, Config.junction, seq, payload⟩, .requested⟩
        arbiter := s.arbiter ++ [.exchange (words16 payload)] }) ∧
    (¬ fits → exec (.exchange seq payload) s =
      .next (answered s .exchangeAnswer seq
        ([s.mode.code,
          octetOfBool s.attentionSummary ||| (octetOfBool s.plcSilent <<< 2),
          BitVec.ofNat 8 s.returns.length, BitVec.ofNat 8 (notOnline s)] ++
          (listed s.tables.emitList).flatMap fun p =>
            s.points[p].quality.code :: octets32 s.points[p].value) s))

/-- FETCH in every mode (R146): the oldest record is removed and carried, an answer longer than 247 octets
cut; an empty queue answers NONE. -/
def Obligations.FetchTakesOldest : Prop :=
  ∀ (s : State) (seq : Seq) (payload : List Octet), s.canServe →
    (s.returns = [] → exec (.fetch seq payload) s = .next (answered s .fetchAnswer seq [0] s)) ∧
    ∀ r rest, s.returns = r :: rest →
      let got := fun octets => exec (.fetch seq payload) s =
        .next (answered s .fetchAnswer seq octets { s with returns := rest })
      (∀ a p, r.outcome = .answered a p →
        (p.length ≤ 247 → got ([1, r.tag, BitVec.ofNat 8 a.val] ++ p)) ∧
        (247 < p.length → got ([6, r.tag, BitVec.ofNat 8 a.val] ++ p.take 247))) ∧
      (r.outcome = .garbled → got [2, r.tag]) ∧ (r.outcome = .noAnswer → got [3, r.tag]) ∧
      (r.outcome = .sent → got [4, r.tag]) ∧ (r.outcome = .dropped → got [5, r.tag])

/-- FORWARD (R138 to R141): refused by the first row that applies, with nothing changed; otherwise it takes
the next tag and joins the end of its segment's queue. One to address 0 is not taken (R97). -/
def Obligations.ForwardDecided : Prop :=
  ∀ (s : State) (seq : Seq) (d : Addr) (payload : List Octet), s.canServe →
    let refused := fun code => exec (.forward seq d payload) s =
      .next (answered s .forwardAck seq [code] s)
    let down := fun g => ∃ n : NodeNo, s.tables.nodes[n].enabled = true ∧
      s.tables.nodes[n].segment = g ∧ s.tables.nodes[n].address = d ∧
      s.nodes[n].link ≠ .online ∧ s.nodes[n].link ≠ .suspect
    let matching := fun k : Fin 8 => s.tables.forwards[k].target ≠ none ∧
      d.val &&& s.tables.forwards[k].matchMask.val =
        s.tables.forwards[k].matchValue.val &&& s.tables.forwards[k].matchMask.val
    (d = 0 → exec (.forward seq d payload) s = .next s) ∧
    (d ≠ 0 → s.mode = .config → refused 3) ∧
    (s.mode ≠ .config → d = Config.junction → refused 2) ∧
    (d ≠ 0 → s.mode ≠ .config → d ≠ Config.junction → (∀ k, ¬ matching k) → refused 2) ∧
    ∀ (k : Fin 8) (g : Seg), d ≠ 0 → s.mode ≠ .config → d ≠ Config.junction →
      matching k → (∀ j, j < k → ¬ matching j) → s.tables.forwards[k].target = some g →
      (down g → refused 4) ∧
      (¬ down g → 4 ≤ (s.segs.get g).queue.length → refused 1) ∧
      (¬ down g → (s.segs.get g).queue.length < 4 → (s.segs.get g).work ≠ .gap →
        exec (.forward seq d payload) s =
          .next (answered s .forwardAck seq [0, s.tag] { s with
            tag := s.tag + 1
            segs := s.segs.upd g fun r => { r with
              queue := r.queue ++ [⟨s.tag, d,
                s.tables.forwards[k].answerExpected && decide (d ≠ Config.allNodes),
                payload⟩] } })) ∧
      (¬ down g → (s.segs.get g).work = .gap → (s.segs.get g).queue = [] →
        (s.ports.get (portOf g)).sending = none → (s.ports.get (portOf g)).inProgress = false →
        ∀ wanted, wanted =
          (s.tables.forwards[k].answerExpected && decide (d ≠ Config.allNodes)) →
        exec (.forward seq d payload) s =
          .next (answered s .forwardAck seq [0, s.tag] { s with
            tag := s.tag + 1
            segs := s.segs.upd g fun r => { r with
              work := .forward, forwardSent := true
              inFlight := some ⟨s.tag, d, wanted, payload⟩ }
            ports := s.ports.upd (portOf g) fun r => { r with
              rx := .seeking, content := [], bits := [], rxOpen := false
              sending := some ⟨⟨d, Config.junction, .forward, Fin.ofNat 4 s.tag.toNat, payload⟩,
                .forward wanted⟩
              awaited := if wanted then .forwardAnswer else .nothing } }))

/-- How the Drive Service keeps its telegrams (R171, R83, R84, R183). While the Drive Port sends, the row of
a telegram that is not served yet finds it lost. While one is served, a second waits and a third is
discarded. The row of a telegram that was taken before serves it as one taken now is served. While the
transmitter is busy its answer waits, and goes out at the end of transmission: then the waiting telegram
is served next, and a RESTART's answer is followed by the re-initialisation. How the row of a command meets
its telegram (a row of none taken stands for one taken now, is lost while the port sends, and waits behind
another) is the model's choice (log entry 6, DESIGN CHOICE). -/
def Obligations.DriveServiceQueue : Prop :=
  (∀ (c : Instr) (t : DriveTelegram) (stage : ServiceStage) (s : State),
    telegramOf c = some (t, stage) → s.alive = true →
    (s.service ≠ some ⟨t, stage⟩ → s.ports.drive.rxOpen = false → exec c s = .next s) ∧
    (∀ v, s.service = some v → v ≠ ⟨t, stage⟩ → s.ports.drive.rxOpen = true →
      (s.waiting = none → exec c s = .next { s with waiting := some t }) ∧
      (s.waiting ≠ none → exec c s = .next s)) ∧
    (stage = .toServe → s.service = some ⟨t, stage⟩ → s.ports.drive.rxOpen = true →
      exec c s = exec c { s with service := none }) ∧
    ∀ seq, c = .restart seq → s.service = some ⟨t, stage⟩ → s.ports.drive.sending ≠ none →
      exec c s = .next { s with
        service := some ⟨t, .answered
          ⟨s.tables.global.plcAddress, Config.junction, .manageAnswer, seq, [6, 0]⟩ true⟩ }) ∧
  (∀ (c : Instr) (t : DriveTelegram) (stage : ServiceStage) (s w : State) (kind : Kind)
      (payload : List Octet),
    telegramOf c = some (t, stage) ∨ (c = .exchangeUpdate ∧ stage = .requested) →
    (∀ seq, c ≠ .restart seq) → s.alive = true → s.service = some ⟨t, stage⟩ →
    s.ports.drive.sending ≠ none →
    let idle := { s with
      waiting := none
      ports := { s.ports with drive := { s.ports.drive with
        sending := none, rx := .seeking, content := [], bits := [] } } }
    exec c idle = .next (answered idle kind t.seq payload w) →
    exec c s = .next { w with
      waiting := s.waiting
      service := some ⟨t, .answered
        ⟨s.tables.global.plcAddress, Config.junction, kind, t.seq, payload⟩ false⟩
      ports := { w.ports with
        drive := { s.ports.drive with counters := w.ports.drive.counters } } }) ∧
  ∀ (s : State) (o : Outgoing) (t : DriveTelegram) (answer : Telegram) (restarts : Bool),
    s.alive = true → s.ports.drive.sending = some o → s.ports.drive.reinit = false →
    s.service = some ⟨t, .answered answer restarts⟩ →
    let ends := fun w => exec (.endOfTransmission .drive) s = .next w
    let sent := fun (service : Option Service) => { s with
      service := service, waiting := none
      ports := { s.ports with drive := { s.ports.drive with
        rx := .seeking, content := [], bits := [], rxOpen := false, awaited := .nothing
        sending := some ⟨answer, .answer⟩ } } }
    (restarts = false → s.waiting = none → ends (sent none)) ∧
    (restarts = false → ∀ u, s.waiting = some u →
      (u.kind ≠ .manage → ends (sent (some ⟨u, .toServe⟩))) ∧
      (∀ m : Command, u.kind = .manage → u.payload = m.payload →
        (m.isUpdate = false → ends (sent (some ⟨u, .toServe⟩))) ∧
        (m.isUpdate = true → ends { sent (some ⟨u, .requested⟩) with
          arbiter := s.arbiter ++ [.manage m] })) ∧
      ∀ code result, u.kind = .manage → parseManage u.payload = (code, .error result) →
        ends (sent (some ⟨u, .answered
          ⟨s.tables.global.plcAddress, Config.junction, .manageAnswer, u.seq,
            code :: result.octets⟩ false⟩))) ∧
    (restarts = true →
      answer = ⟨s.tables.global.plcAddress, Config.junction, .manageAnswer, t.seq, [6, 0]⟩ →
      exec (.endOfTransmission .drive) s = exec (.restart t.seq) { s with
        service := none, waiting := none
        ports := { s.ports with drive := { s.ports.drive with
          sending := none, rx := .seeking, content := [], bits := [], rxOpen := true } } })

/-! ## Management updates -/

/-- START granted in CONFIG on tables that pass validation (R25, R46, R72, R109, R120, R122 to R124, R153,
R155, R156, R162, R180). Every block's runtime is initialised: forces, trips, terms, permits and bypasses,
the points by their sources, DERIVED points computed once from the fail values, OUT points blocked and
handed to their local outputs, the channels armed; the timers run; and on each segment the first list is
formed and its first POLL goes out, or waits for the transmitter. Of the attention flags only LINE_FAULT
can be set, by a reception that the POLL breaks off (R83). Instants are on the model's own clock (log
entry 2). Two clauses are the model's choice: the first POLL carries the OUT values as the START update
leaves them, the blocked ones (log entry 16, DEDUCED), and `runRequested`, a field of the model's own, is
cleared (log entry 20, DESIGN CHOICE). -/
def Obligations.StartInitialises : Prop :=
  ∀ (s : State) (seq : Seq) (rest : List Request),
    s.atGrantOf (manageTelegram seq .start) (.manage .start) rest →
    s.mode = .config → validate s.tables = none → quietInConfig s →
    ∃ w, exec (.start seq) s = .next (managed s seq 4 [0] w) ∧
      w = { s with
        arbiter := rest, mode := .starting, forced := [], bypasses := [], slot := 0, lampIndex := 0
        exchangeTaken := false, plcSilent := false, runRequested := false
        cycleTimer := .running (s.now + cyclePeriodUnits s)
        lampTimer := .running (s.now + lampStepTime s)
        startTimer := .running (s.now + s.tables.global.startTimeout * Config.second)
        silenceTimer := .running (s.now + s.tables.global.silenceLimit * Config.millisecond)
        points := w.points, trips := w.trips, interlocks := w.interlocks, nodes := w.nodes
        outputs := w.outputs, channels := w.channels, ports := w.ports, segs := w.segs
        attention := w.attention } ∧
      w.ports.drive = s.ports.drive ∧
      (∀ f, f ≠ .lineFault → w.flag f = s.flag f) ∧
      ((∀ g, (s.ports.get (portOf g)).inProgress = false) → w.attention = s.attention) ∧
      (∀ p : PointNo,
        let c := s.tables.points[p]
        let cleared := { s.points[p] with hold := .stopped, withheld := .absent, latch := false }
        (c.source = .unused → w.points[p] = cleared) ∧
        (c.source = .node ∨ c.source = .plc → w.points[p] =
          { cleared with value := c.zeroClamped, quality := .unset, lastRaw := 0, seed := false }) ∧
        (c.source = .line → ∀ i : InputNo, c.refA.val = i.val → w.points[p] =
          { cleared with
            value := wordOfBool (s.inputs[i].pin.accepted != c.invert), quality := .good }) ∧
        (c.source = .channel → ∀ k : ChannelNo, c.refA.val = k.val →
          let m : Word32 := if s.tables.channels[k].mode = .quad
            then BitVec.ofInt 32 s.tables.channels[k].preset else 0
          w.points[p] =
            { cleared with value := (convert c (.measure m)).1
                           quality := (convert c (.measure m)).2 }) ∧
        (c.source = .state → w.points[p] = { cleared with value := 0, quality := .good }) ∧
        (c.source = .derived →
          let first := { cleared with
            value := c.zeroClamped, quality := .unset, lastRaw := 0, seed := false }
          w.points[p] =
            { first with value := w.points[p].value, quality := w.points[p].quality } ∧
          computeDerived { w with
            trips := s.tables.derived.map DerivedCfg.failValue, points := w.points.set p first }
            c.refA = (some (w.points[p].value, w.points[p].quality), w.trips[c.refA])) ∧
        (c.source = .feed → w.points[p] =
          { cleared with value := c.blocked, quality := .substituted })) ∧
      (∀ e : DerivedNo, s.tables.derived[e].kind = .unused →
        w.trips[e] = s.tables.derived[e].failValue) ∧
      (∀ e : InterlockNo,
        let c := s.tables.interlocks[e]
        (c.mode = .unused → w.interlocks[e] = {}) ∧
        (c.mode ≠ .unused →
          w.interlocks[e].terms = (moveTerms w c {}).terms ∧
          (w.interlocks[e].permit = true ↔
            ∀ k : TermNo, k.val < c.count.val → w.interlocks[e].terms[k].state = .held) ∧
          w.interlocks[e].effective = w.interlocks[e].permit)) ∧
      (∀ (o : OutputNo) (handedOut : OutputRt),
        let targets := fun p : PointNo => s.tables.source p = .feed ∧
          s.tables.points[p].targetKind = .localOut ∧ s.tables.points[p].targetA.val = o.val
        let quiet : OutputRt := { ignored := s.outputs[o].ignored }
        ((∀ p, targets p → handedOut =
            (handed w s.tables.outputs[o] s.tables.points[p].blocked quiet).1) ∧
          ((∀ p, ¬ targets p) → handedOut = quiet)) →
        (s.tables.outputs[o].mode ≠ .duty → w.outputs[o] = handedOut) ∧
        (s.tables.outputs[o].mode = .duty → w.outputs[o] =
          { handedOut with
            active := decide (handedOut.last ≠ 0)
            onTimer := if handedOut.last = 0 then .stopped
              else .running (s.now + handedOut.last.toNat * 625)
            period := .running (s.now + 10 * Config.millisecond) })) ∧
      (∀ k : ChannelNo, w.channels[k] =
        { a := ⟨s.channels[k].a.line, s.channels[k].a.line, .stopped⟩
          b := ⟨s.channels[k].b.line, s.channels[k].b.line, .stopped⟩
          z := ⟨s.channels[k].z.line, s.channels[k].z.line, .stopped⟩
          lastPair := (s.channels[k].a.line, s.channels[k].b.line)
          position := s.tables.channels[k].preset
          errors := s.channels[k].errors
          sample := if s.tables.channels[k].mode = .off then .stopped
            else .running (s.now + s.tables.channels[k].interval * Config.millisecond) }) ∧
      (∀ n : NodeNo,
        let first : NodeRt :=
          { link := if s.tables.nodes[n].enabled then .silent else .absent
            misses := 0, goods := 0, lossPending := false, lastSeq := 3
            counters := s.nodes[n].counters }
        ((∀ g, (w.segs.get g).pollList.head? ≠ some n) → w.nodes[n] = first) ∧
        ∀ g, (w.segs.get g).pollList.head? = some n → w.nodes[n] = { first with
          lastSeq := 0
          counters := if (s.ports.get (portOf g)).sending = none then
              updOne first.counters NodeCounter.pollsSent.index bump
            else first.counters }) ∧
      ∀ g,
        let list := (w.segs.get g).pollList
        let port := s.ports.get (portOf g)
        list.Pairwise (· < ·) ∧
        (∀ n : NodeNo, n ∈ list ↔
          s.tables.nodes[n].enabled = true ∧ s.tables.nodes[n].segment = g ∧
            s.tables.nodes[n].pollMask.getLsbD 0 = true) ∧
        (list = [] → w.segs.get g = { s.segs.get g with work := .gap } ∧
          w.ports.get (portOf g) = port) ∧
        ∀ n, list.head? = some n →
          let poll : Outgoing := ⟨⟨s.tables.nodes[n].address, Config.junction, .poll, 0,
            pollPayload w n⟩, .poll n⟩
          (port.sending = none →
            w.segs.get g = { s.segs.get g with
              work := .exchange n true, pollList := list, next := 1 } ∧
            (port.inProgress = false → w.ports.get (portOf g) = { port with
              rx := .seeking, content := [], bits := [], rxOpen := false, sending := some poll
              awaited := .reply s.tables.nodes[n].address })) ∧
          (port.sending ≠ none →
            w.segs.get g = { s.segs.get g with
              work := .exchange n false, pollList := list, next := 1
              outbox := (s.segs.get g).outbox ++ [poll] } ∧
            w.ports.get (portOf g) = port)

/-- STOP granted in STARTING or RUN on tables that pass validation (R26, R72, R80, R116, R134, R147, R153,
R155, R162, R182). Every point by its source: a forced one is released first (R23, R39, R42), NODE and PLC
points age, STATE points become 0, DERIVED points follow their members, OUT points are blocked. Nodes are
ABSENT, interlocks, bypasses and outputs cleared, forwards dropped and SAFE sent. Of the attention flags
only RETURN_OVERWRITTEN, by the dropped forwards, and LINE_FAULT, by a reception that SAFE breaks off, can
be set; BYPASS_ENDED, NODE_LOST and the others stand. That a STATE point keeps its quality, of which R12 and
R26 say nothing at STOP, and that results and trips on STATE points alone follow it there, where R57 can be
read otherwise, is the model's reading (log entry 19, DEDUCED), and so is that of what waits for a
transmitter a SAFE of an earlier STOP is kept, and the rest dropped (log entry 8, DEDUCED). `runRequested`,
which is cleared, is a field of the model's own (log entry 20, DESIGN CHOICE). -/
def Obligations.StopAbandonsAll : Prop :=
  ∀ (s : State) (seq : Seq) (rest : List Request),
    s.atGrantOf (manageTelegram seq .stop) (.manage .stop) rest →
    s.mode ≠ .config → validate s.tables = none → s.forced.Nodup → forcedShown s →
    s.returns.length ≤ 4 →
    ∃ w, exec (.stop seq) s = .next (managed s seq 5 [0] w) ∧
      w = { s with
        arbiter := rest, mode := .config, forced := [], bypasses := [], slot := 0, lampIndex := 0
        cycleTimer := .stopped, lampTimer := .stopped, startTimer := .stopped
        silenceTimer := .stopped, exchangeTaken := false, plcSilent := false, runRequested := false
        interlocks := Vector.replicate 48 {}
        points := w.points, trips := w.trips, nodes := w.nodes, outputs := w.outputs
        channels := w.channels, ports := w.ports, segs := w.segs, returns := w.returns
        attention := w.attention } ∧
      w.ports.drive = s.ports.drive ∧
      (∀ f, f ≠ .returnOverwritten → f ≠ .lineFault → w.flag f = s.flag f) ∧
      (w.flag .lineFault = true ↔ s.flag .lineFault = true ∨ ∃ g,
        (s.ports.get (portOf g)).sending = none ∧ (s.ports.get (portOf g)).inProgress = true) ∧
      (∀ n : NodeNo, w.nodes[n] =
        { link := .absent, misses := 0, goods := 0, lossPending := false
          lastSeq := s.nodes[n].lastSeq, counters := s.nodes[n].counters }) ∧
      (∀ p : PointNo,
        let c := s.tables.points[p]
        let before := fun rt : PointRt =>
          (s.isForced p = false → rt = s.points[p]) ∧
            (s.isForced p = true → c.givenBack s.points[p] rt)
        (c.source = .unused → s.isForced p = false →
          w.points[p] = { s.points[p] with hold := .stopped }) ∧
        (c.source = .node ∨ c.source = .plc → ∃ rt, before rt ∧ w.points[p] =
          { rt with
            hold := .stopped
            quality := match rt.quality with
              | .good | .limited => .stale
              | q => q }) ∧
        (c.source = .line ∨ c.source = .channel → ∃ rt, before rt ∧
          w.points[p] = { rt with hold := .stopped }) ∧
        (c.source = .state → ∃ rt, before rt ∧ w.points[p] = { rt with value := 0, hold := .stopped }) ∧
        (c.source = .feed → s.isForced p = false → w.points[p] = { s.points[p] with
          value := c.blocked, quality := .substituted, hold := .stopped })) ∧
      (∀ e : DerivedNo, s.tables.derived[e].kind ≠ .unused →
        let p := s.tables.derived[e].result
        let gives := fun (u : State) =>
          computeDerived u e = (some (w.points[p].value, w.points[p].quality), w.trips[e])
        let stand := ∀ m ∈ s.tables.derived[e].used, s.differs w m.point = false
        w.points[p] = { s.points[p] with
          value := w.points[p].value, quality := w.points[p].quality, hold := .stopped
          withheld := if s.isForced p then .absent else s.points[p].withheld } ∧
        (s.isForced p = false → stand → w.trips[e] = s.trips[e] ∧
          w.points[p].value = s.points[p].value ∧ w.points[p].quality = s.points[p].quality) ∧
        (s.isForced p = false → ¬ stand →
          gives { w with trips := s.trips, points := w.points.set p s.points[p] }) ∧
        (s.isForced p = true → stand → ∃ v,
          computeDerived s e = (some (v, w.points[p].quality), w.trips[e]) ∧
          w.points[p].value =
            if w.points[p].quality = .unset then s.tables.points[p].zeroClamped else v) ∧
        (derivedCurrent s → gives w)) ∧
      (∀ o : OutputNo, w.outputs[o] = { ignored := s.outputs[o].ignored }) ∧
      (∀ k : ChannelNo, w.channels[k] = { s.channels[k] with sample := .stopped }) ∧
      (∀ all, all = s.returns ++
          (s.segs.spreader.unended ++ s.segs.cab.unended).map (fun f => ⟨f.tag, .dropped⟩) →
        w.returns = all.drop (all.length - 4) ∧
          (w.flag .returnOverwritten = true ↔
            s.flag .returnOverwritten = true ∨ 4 < all.length)) ∧
      ∀ g,
        let port := s.ports.get (portOf g)
        let waits := (s.segs.get g).outbox.filter fun o => decide (o.owner = .safe)
        w.segs.get g =
          { work := .stopped, pollList := [], next := 0, forwardSent := false, window := .stopped
            windowExpired := false, turnaround := .stopped, overruns := (s.segs.get g).overruns
            outbox := if port.sending = none then waits else waits ++ [safeTelegram]
            queue := [], inFlight := none, answerWindow := .stopped, answerExpired := false } ∧
        (port.sending = none → w.ports.get (portOf g) =
          { port with
            rx := .seeking, content := [], bits := [], rxOpen := false, awaited := .nothing
            sending := some safeTelegram
            counters := if port.inProgress then updOne port.counters RxOutcome.broken.index bump
              else port.counters }) ∧
        ∀ o, port.sending = some o →
          w.ports.get (portOf g) = { port with awaited := .nothing, sending := some o.abandon }

/-- FORCE granted in STARTING or RUN on a point that may be forced (R21): the clamped value, FORCED, and the
end of the forced list, or its place kept; the withheld intake by the source. -/
def Obligations.ForceHoldsPoint : Prop :=
  ∀ (s : State) (seq : Seq) (point : Word16) (value : Word32) (rest : List Request) (p : PointNo),
    s.atGrantOf (manageTelegram seq (.force point value)) (.manage (.force point value)) rest →
    s.mode ≠ .config → s.tables.resultsBound → point.toNat = p.val →
    s.tables.source p ≠ .unused → s.tables.source p ≠ .feed →
    (s.isForced p = true ∨ s.forced.length < 16) →
    let c := s.tables.points[p]
    ∃ (w : State) (v : Word32) (kept : Withheld),
      exec (.force seq point value) s = .next (managed s seq 7 [0] w) ∧
      Updated
        { s with
          arbiter := rest, forced := if s.isForced p then s.forced else s.forced ++ [p] }
        w (fun q => decide (q = p)) ∧
      w.points[p] =
        { s.points[p] with value := v, quality := .forced, forcedValue := v, withheld := kept } ∧
      (c.form = .cnt → v = value) ∧
      (∀ lo hi, c.limits = some (lo, hi) →
        (value.toInt < lo → v = BitVec.ofInt 32 lo) ∧
        (lo ≤ value.toInt → hi < value.toInt → v = BitVec.ofInt 32 hi) ∧
        (lo ≤ value.toInt → value.toInt ≤ hi → v = value)) ∧
      (c.source = .node ∨ c.source = .plc →
        kept = if s.isForced p then s.points[p].withheld else .absent) ∧
      (c.source = .line → ∀ i : InputNo, c.refA.val = i.val →
        kept = .fresh (.bit s.inputs[i].pin.accepted)) ∧
      (c.source = .channel → ∀ k : ChannelNo, c.refA.val = k.val →
        kept = .fresh (.measure (measurement s.tables.channels[k] s.channels[k]))) ∧
      (c.source = .state → ∀ n : NodeNo, c.refA.val = n.val →
        kept = .fresh (.bit (decide (s.nodes[n].link = .online ∨ s.nodes[n].link = .suspect))))

/-- What a management update refuses at its grant, in the order of its checks: a mode (R19, R21, R23, R24,
R26, R76, R78, R180), a number beyond the last point or entry, a point or entry that may not be forced
or bypassed, a full list (R21, R76), and START on tables that fail validation (R179). The request is
taken off the list, and nothing else changes but CHECK_REFUSED. -/
def Obligations.UpdatesRefused : Prop :=
  ∀ (s : State) (seq : Seq) (rest : List Request),
    let refused := fun (i : Instr) (c : Command) =>
      s.atGrantOf (manageTelegram seq c) (.manage c) rest →
      exec i s = .next (managed s seq c.code [1] { s with arbiter := rest })
    (s.mode ≠ .config → refused (.start seq) .start) ∧
    (s.mode = .config → refused (.stop seq) .stop ∧
      (∀ point value, refused (.force seq point value) (.force point value)) ∧
      (∀ point, refused (.release seq point) (.release point)) ∧
      refused (.releaseAll seq) .releaseAll) ∧
    (s.mode ≠ .run →
      (∀ entry seconds, refused (.bypass seq entry seconds) (.bypass entry seconds)) ∧
      ∀ entry, refused (.cancelBypass seq entry) (.cancelBypass entry)) ∧
    (∀ f, s.mode = .config → validate s.tables = some f →
      s.atGrantOf (manageTelegram seq .start) (.manage .start) rest →
      exec (.start seq) s = .next (managed s seq 4
        ([6, BitVec.ofNat 8 f.table] ++ octets16 (BitVec.ofNat 16 f.entry) ++
          [BitVec.ofNat 8 f.code]) (setFlag .checkRefused { s with arbiter := rest }))) ∧
    (∀ point value,
      s.atGrantOf (manageTelegram seq (.force point value)) (.manage (.force point value)) rest →
      s.mode ≠ .config →
      let refused := fun code => exec (.force seq point value) s =
        .next (managed s seq 7 [code] { s with arbiter := rest })
      (384 ≤ point.toNat → refused 3) ∧
      ∀ p : PointNo, point.toNat = p.val →
        (s.tables.source p = .unused ∨ s.tables.source p = .feed → refused 8) ∧
        (s.tables.source p ≠ .unused → s.tables.source p ≠ .feed → s.isForced p = false →
          16 ≤ s.forced.length → refused 7)) ∧
    (∀ point, s.atGrantOf (manageTelegram seq (.release point)) (.manage (.release point)) rest →
      s.mode ≠ .config → 384 ≤ point.toNat →
      exec (.release seq point) s = .next (managed s seq 8 [3] { s with arbiter := rest })) ∧
    (∀ entry seconds,
      s.atGrantOf (manageTelegram seq (.bypass entry seconds)) (.manage (.bypass entry seconds))
        rest →
      s.mode = .run →
      let refused := fun result => exec (.bypass seq entry seconds) s =
        .next (managed s seq 10 result { s with arbiter := rest })
      (48 ≤ entry.toNat → refused [3]) ∧
      ∀ e : InterlockNo, entry.toNat = e.val →
        let c := s.tables.interlocks[e]
        (seconds.toNat < 1 ∨ 600 < seconds.toNat → refused [4, 2]) ∧
        (1 ≤ seconds.toNat → seconds.toNat ≤ 600 → c.bypassable = false ∨ c.mode = .unused →
          refused [8]) ∧
        (1 ≤ seconds.toNat → seconds.toNat ≤ 600 → c.bypassable = true → c.mode ≠ .unused →
          s.isBypassed e = false → 4 ≤ s.bypasses.length → refused [7])) ∧
    ∀ entry, s.atGrantOf (manageTelegram seq (.cancelBypass entry)) (.manage (.cancelBypass entry))
        rest →
      s.mode = .run → 48 ≤ entry.toNat →
      exec (.cancelBypass seq entry) s = .next (managed s seq 11 [3] { s with arbiter := rest })

/-- RELEASE and RELEASE ALL granted in STARTING or RUN (R23, R24) on tables that pass validation: a point
that is not forced is left as it is; a forced one leaves the list. One that is not DERIVED takes what its
withheld intake gives, by its source and form (R39, R42). The entry of a DERIVED one is computed once, and
with an UNSET member the point is UNSET at 0 clamped into its limits (R56); for RELEASE ALL this is said
of an entry whose members are neither forced nor DERIVED, since the order of such releases is the
model's choice (log entry 22). -/
def Obligations.ReleaseReturnsPoint : Prop :=
  ∀ (s : State) (seq : Seq) (rest : List Request),
    s.mode ≠ .config → validate s.tables = none → s.forced.Nodup →
    let computed := fun (p : PointNo) (w : State) =>
      let e := s.tables.points[p].refA
      ∃ v q, computeDerived s e = (some (v, q), w.trips[e]) ∧
        w.points[p] = { s.points[p] with
          value := if q = .unset then s.tables.points[p].zeroClamped else v, quality := q
          withheld := .absent }
    (∀ point, s.atGrantOf (manageTelegram seq (.release point)) (.manage (.release point)) rest →
      ∀ p : PointNo, point.toNat = p.val →
        (s.isForced p = false →
          exec (.release seq point) s = .next (managed s seq 8 [0] { s with arbiter := rest })) ∧
        (s.isForced p = true → s.tables.source p ≠ .feed → ∃ w,
          exec (.release seq point) s = .next (managed s seq 8 [0] w) ∧
          w.forced = s.forced.filter (fun q => q != p) ∧
          Updated { s with arbiter := rest, forced := w.forced } w (fun q => decide (q = p)) ∧
          (s.tables.source p ≠ .derived →
            s.tables.points[p].givenBack s.points[p] w.points[p]) ∧
          (s.tables.source p = .derived → computed p w))) ∧
    (s.atGrantOf (manageTelegram seq .releaseAll) (.manage .releaseAll) rest →
      (∀ p ∈ s.forced, s.tables.source p ≠ .feed) →
      ∃ w, exec (.releaseAll seq) s = .next (managed s seq 9 [0] w) ∧
        Updated { s with arbiter := rest, forced := [] } w s.isForced ∧
        ∀ p, s.isForced p = true →
          (s.tables.source p ≠ .derived →
            s.tables.points[p].givenBack s.points[p] w.points[p]) ∧
          (s.tables.source p = .derived →
            (∀ m ∈ s.tables.derived[s.tables.points[p].refA].used,
              s.isForced m.point = false ∧ s.tables.source m.point ≠ .derived) →
            computed p w))

/-- BYPASS and CANCEL BYPASS granted in RUN on an entry that may be bypassed (R76 to R78): the record begins
at the end of the list, or its timer restarts in its place, or it is removed; no term moves, the permit is
that of the terms, and the effective permit becomes true, or falls back to the permit. -/
def Obligations.BypassBeginsAndEnds : Prop :=
  ∀ (s : State) (seq : Seq) (entry : Octet) (rest : List Request) (e : InterlockNo),
    s.mode = .run → s.tables.resultsBound → entry.toNat = e.val →
    s.tables.interlocks[e].mode ≠ .unused →
    let recomputed := fun w : State =>
      w.interlocks[e].terms = s.interlocks[e].terms ∧
      (w.interlocks[e].permit = true ↔ ∀ k : TermNo, k.val < s.tables.interlocks[e].count.val →
        s.interlocks[e].terms[k].state = .held)
    (∀ seconds : Word16,
      s.atGrantOf (manageTelegram seq (.bypass entry seconds)) (.manage (.bypass entry seconds))
        rest →
      1 ≤ seconds.toNat → seconds.toNat ≤ 600 → s.tables.interlocks[e].bypassable = true →
      (s.isBypassed e = true ∨ s.bypasses.length < 4) →
      ∃ w timer, timer = .running (s.now + seconds.toNat * Config.second) ∧
        exec (.bypass seq entry seconds) s = .next (managed s seq 10 [0] w) ∧
        w.bypasses = (if s.isBypassed e then
            s.bypasses.map fun b => if b.entry = e then ⟨b.entry, timer⟩ else b
          else s.bypasses ++ [⟨e, timer⟩]) ∧
        Updated { s with arbiter := rest, bypasses := w.bypasses } w (fun _ => false) [e] ∧
        recomputed w ∧ w.interlocks[e].effective = true) ∧
    (s.atGrantOf (manageTelegram seq (.cancelBypass entry)) (.manage (.cancelBypass entry)) rest →
      (s.isBypassed e = false →
        exec (.cancelBypass seq entry) s = .next (managed s seq 11 [0] { s with arbiter := rest })) ∧
      (s.isBypassed e = true → ∃ w,
        exec (.cancelBypass seq entry) s = .next (managed s seq 11 [0] w) ∧
        w.bypasses = s.bypasses.filter (fun b => b.entry != e) ∧
        Updated { s with arbiter := rest, bypasses := w.bypasses } w (fun _ => false) [e] ∧
        recomputed w ∧ w.interlocks[e].effective = w.interlocks[e].permit))

/-! ## Updates of the blocks -/

/-- The grant of a taken EXCHANGE in STARTING or RUN (R13, R30, R172, R173): each listed PLC point takes its
value, the drive silence timer restarts, PLC silent clears, in STARTING the exchange-taken mark is set,
and the answer reports the image as it then stands. In STARTING with every enabled node ONLINE the test
of R181 holds: where it has not held before, the start timer is cancelled and the entry to RUN requested.
That it has is kept in `runRequested`, a field of the model's own (log entry 20, DESIGN CHOICE). A grant
that finds the mode CONFIG is discarded and answered with values taken clear (R19). -/
def Obligations.ExchangeWritesPlcPoints : Prop :=
  ∀ (s : State) (t : DriveTelegram) (values : List Word16) (rest : List Request),
    s.atGrantOf t (.exchange values) rest →
    (s.mode = .config → exec .exchangeUpdate s = .next (answered s .exchangeAnswer t.seq
      ([(0 : Octet), octetOfBool s.attentionSummary ||| (octetOfBool s.plcSilent <<< 2),
        BitVec.ofNat 8 s.returns.length, BitVec.ofNat 8 (notOnline s)] ++
        (listed s.tables.emitList).flatMap fun p =>
          s.points[p].quality.code :: octets32 s.points[p].value) { s with arbiter := rest })) ∧
    (s.mode ≠ .config → s.tables.resultsBound →
    (listed s.tables.writeList).Nodup → values.length = (listed s.tables.writeList).length →
    (∀ p ∈ listed s.tables.writeList, s.tables.source p = .plc) →
    let ready := s.mode = .starting ∧ s.runRequested = false ∧
      ∀ n : NodeNo, s.tables.nodes[n].enabled = true → s.nodes[n].link = .online
    ∃ w, exec .exchangeUpdate s = .next (answered s .exchangeAnswer t.seq
        ([s.mode.code, octetOfBool w.attentionSummary ||| 2, BitVec.ofNat 8 s.returns.length,
          BitVec.ofNat 8 (notOnline s)] ++
          (listed s.tables.emitList).flatMap fun p =>
            w.points[p].quality.code :: octets32 w.points[p].value) w) ∧
      (let written := { s with
          arbiter := rest, plcSilent := false
          silenceTimer := .running (s.now + s.tables.global.silenceLimit * Config.millisecond)
          exchangeTaken := s.exchangeTaken || decide (s.mode = .starting) }
        let listed_ := fun p => (listed s.tables.writeList).contains p
        (¬ ready → Updated written w listed_) ∧
        (ready → Updated { written with
          arbiter := rest ++ [.entryToRun], startTimer := .stopped, runRequested := true } w listed_)) ∧
      ∀ (k : Nat) (p : PointNo) (v : Word16),
        (listed s.tables.writeList)[k]? = some p → values[k]? = some v →
        (s.isForced p = true → s.tables.points[p].form ≠ .cnt →
          w.points[p] = { s.points[p] with withheld := .fresh (.word v) }) ∧
        (s.isForced p = false → s.tables.points[p].form = .bin →
          w.points[p] = { s.points[p] with
            value := wordOfBool (decide (v ≠ 0) != s.tables.points[p].invert), quality := .good }) ∧
        (s.isForced p = false → ∀ x : Int,
          (s.tables.points[p].form = .ana ∧ x = anaScaled s.tables.points[p] v.toInt ∨
            s.tables.points[p].form = .word ∧ x = v.toNat) →
          w.points[p] = { s.points[p] with
            value := (s.tables.points[p].clamp x).1
            quality := if (s.tables.points[p].clamp x).2 then .limited else .good }))

/-- The grant of a hold timer's expiry and of the drive silence expiry (R10, R14): the stale policy, the
flag, and nothing for a timer that has been restarted or cancelled. -/
def Obligations.ExpiriesAgePoints : Prop :=
  ∀ (s : State) (rest : List Request), s.tables.resultsBound →
    (∀ (p : PointNo) (due : Nat), s.grants (.holdExpiry p due) rest →
      (s.points[p].hold ≠ .expired due →
        exec .holdExpiryUpdate s = .next { s with arbiter := rest }) ∧
      (s.points[p].hold = .expired due → s.tables.source p = .node → ∃ t,
        exec .holdExpiryUpdate s = .next t ∧
        Updated
          (setFlagIf
            (decide ((applyStale s.tables.points[p] s.points[p]).quality ≠ s.points[p].quality))
            .pointStale { s with arbiter := rest })
          t (fun q => decide (q = p)) ∧
        t.points[p] =
          { applyStale s.tables.points[p] s.points[p] with hold := .stopped })) ∧
    (∀ due : Nat, s.grants (.driveSilence due) rest → ∃ t,
      exec .driveSilenceUpdate s = .next t ∧
      Updated (setFlag .plcSilent { s with arbiter := rest, plcSilent := true }) t
        (fun q => decide (s.tables.source q = .plc)) ∧
      ∀ q, s.tables.source q = .plc →
        t.points[q] = applyStale s.tables.points[q] s.points[q])

/-- The grant of a reply's intake in STARTING or RUN (R8, R12, R22): every NODE point of the node takes its
slot, shown or withheld, and its hold timer starts; on a rise the STATE points become 1. Where the test of
R181 holds and has not held before, the start timer is cancelled and the entry to RUN requested; that it
is tested here as well as at the move into ONLINE is the model's choice (log entry 11, DEDUCED), and
`runRequested`, which keeps that it has held, is a field of the model's own (log entry 20, DESIGN
CHOICE). -/
def Obligations.ReplyRefreshesPoints : Prop :=
  ∀ (s : State) (n : NodeNo) (payload : List Octet) (rise : Bool) (rest : List Request),
    s.grants (.replyIntake n payload rise) rest → s.tables.resultsBound →
    let ready := s.mode = .starting ∧ s.exchangeTaken = true ∧ s.runRequested = false ∧
      ∀ n : NodeNo, s.tables.nodes[n].enabled = true → s.nodes[n].link = .online
    let written := fun q : PointNo => (decide (s.tables.source q = .node) ||
      (decide (s.tables.source q = .state) && rise)) && s.tables.points[q].refA.val == n.val
    ∃ t, exec .replyIntakeUpdate s = .next t ∧
      (¬ ready → Updated { s with arbiter := rest } t written) ∧
      (ready → Updated { s with
        arbiter := rest ++ [.entryToRun], startTimer := .stopped, runRequested := true } t written) ∧
      ∀ q : PointNo, s.tables.points[q].refA.val = n.val →
        let c := s.tables.points[q]
        let rt := s.points[q]
        let raw := replySlot s.tables.nodes[n] payload c.refB.val
        let hold := Timer.running (s.now + c.holdLimit * Config.millisecond)
        (c.source = .node → c.form ≠ .cnt → t.points[q] =
          if s.isForced q then { rt with withheld := .fresh raw, hold := hold }
          else { rt with value := (convert c raw).1, quality := (convert c raw).2, hold := hold }) ∧
        (c.source = .node → c.form = .cnt → s.isForced q = false → t.points[q] =
          { rt with
            value := if rt.seed then rt.value + (raw.asWord - rt.lastRaw).setWidth 32
              else raw.asWord.setWidth 32
            lastRaw := raw.asWord, seed := true, quality := .good, hold := hold }) ∧
        (c.source = .node → c.form = .cnt → s.isForced q = true → t.points[q] =
          { rt with
            withheld := .fresh (.advance (rt.withheld.advanced +
              if rt.seed then (raw.asWord - rt.lastRaw).setWidth 32 else 0))
            lastRaw := raw.asWord, seed := true, hold := hold }) ∧
        (c.source = .state → c.form = .bin → rise = true → t.points[q] =
          if s.isForced q then { rt with withheld := .fresh (.bit true) }
          else { rt with value := 1, quality := .good })

/-- The grant of a node's loss (R11, R113): the node is LOST, NODE_LOST is set, its NODE points age together
with their hold timers cancelled, and its STATE points become 0; a loss no longer pending is
discarded. -/
def Obligations.LossAgesNodePoints : Prop :=
  ∀ (s : State) (n : NodeNo) (instant : Option Nat) (rest : List Request),
    s.grants (.nodeLoss n instant) rest → s.tables.resultsBound →
    (s.nodes[n].lossPending = false →
      exec .nodeLossUpdate s = .next { s with arbiter := rest }) ∧
    (s.nodes[n].lossPending = true → ∃ t, exec .nodeLossUpdate s = .next t ∧
      Updated
        (setFlag .nodeLost { s with
          arbiter := rest
          nodes := s.nodes.set n { s.nodes[n] with
            link := .lost, misses := 0, goods := 0, lossPending := false } })
        t
        (fun q => (decide (s.tables.source q = .node) || decide (s.tables.source q = .state)) &&
          s.tables.points[q].refA.val == n.val) ∧
      ∀ q : PointNo, s.tables.points[q].refA.val = n.val →
        (s.tables.source q = .node →
          t.points[q] = { applyStale s.tables.points[q] s.points[q] with hold := .stopped }) ∧
        (s.tables.source q = .state → s.tables.points[q].form = .bin → t.points[q] =
          if s.isForced q then { s.points[q] with withheld := .fresh (.bit false) }
          else { s.points[q] with value := 0, quality := .good }))

/-- The grant of a term's hold expiry and of a bypass expiry (R69, R79): the term is HELD, or the bypass ends
with BYPASS_ENDED; no other term moves, the permit is that of the terms, and the effective permit follows
permit and bypass. Each is discarded if its run of the timer is over. -/
def Obligations.TermAndBypassExpiries : Prop :=
  ∀ (s : State) (e : InterlockNo) (due : Nat) (rest : List Request), s.tables.resultsBound →
    let held := fun w : State =>
      w.interlocks[e].permit = true ↔
        ∀ j : TermNo, j.val < s.tables.interlocks[e].count.val →
          w.interlocks[e].terms[j].state = .held
    (∀ k : TermNo, s.grants (.termHold e k due) rest →
      (s.interlocks[e].terms[k] ≠ ⟨.timing, .expired due⟩ →
        exec .termHoldUpdate s = .next { s with arbiter := rest }) ∧
      (s.interlocks[e].terms[k] = ⟨.timing, .expired due⟩ →
        s.tables.interlocks[e].mode ≠ .unused → ∃ t, exec .termHoldUpdate s = .next t ∧
        Updated { s with arbiter := rest } t (fun _ => false) [e] ∧
        t.interlocks[e].terms = s.interlocks[e].terms.set k ⟨.held, .stopped⟩ ∧ held t ∧
        (t.interlocks[e].effective = true ↔
          t.interlocks[e].permit = true ∨ s.isBypassed e = true))) ∧
    (s.grants (.bypassExpiry e due) rest →
      (⟨e, .expired due⟩ ∉ s.bypasses →
        exec .bypassExpiryUpdate s = .next { s with arbiter := rest }) ∧
      (⟨e, .expired due⟩ ∈ s.bypasses → s.tables.interlocks[e].mode ≠ .unused →
        ∃ t, exec .bypassExpiryUpdate s = .next t ∧
        Updated
          (setFlag .bypassEnded { s with
            arbiter := rest, bypasses := s.bypasses.filter fun b => b.entry != e })
          t (fun _ => false) [e] ∧
        t.interlocks[e].terms = s.interlocks[e].terms ∧ held t ∧
        t.interlocks[e].effective = t.interlocks[e].permit))

/-- The entry to RUN (R75, R115, R181): the mode becomes RUN, nodes still SILENT become LOST and NODE_LOST is
set, and their NODE points take the stale policy: UNSET as they are, they stay UNSET under HOLD and come to
their safe value under SAFE. The start timer's grant also sets START_INCOMPLETE, and every latch of a
REARM-guarded OUT point with an active feed is set. DERIVED points, terms, OUT points and local outputs
follow in the later steps (R17); every other point stands. In any other mode the request is discarded. -/
def Obligations.EntryToRunSetsLatches : Prop :=
  ∀ (s : State) (r : Request) (rest : List Request),
    s.alive = true → s.arbiter = r :: rest → (r = .entryToRun ∨ ∃ due, r = .startTimer due) →
    validate s.tables = none →
    (s.mode ≠ .starting → exec .entryToRun s = .next { s with arbiter := rest }) ∧
    (s.mode = .starting → ∃ t, exec .entryToRun s = .next t ∧
      t = { s with
        arbiter := rest, mode := .run, startTimer := .stopped, nodes := t.nodes, points := t.points
        trips := t.trips, interlocks := t.interlocks, outputs := t.outputs
        attention := t.attention } ∧
      (∀ n : NodeNo, t.nodes[n] =
        if s.nodes[n].link = .silent then
          { s.nodes[n] with link := .lost, misses := 0, goods := 0 }
        else s.nodes[n]) ∧
      (∀ f, f ≠ .trainIgnored → (t.flag f = true ↔ s.flag f = true ∨
        (f = .nodeLost ∧ ∃ n : NodeNo, s.nodes[n].link = .silent) ∨
        (f = .startIncomplete ∧ r ≠ .entryToRun))) ∧
      (let silent := fun p : PointNo => (List.finRange 16).any fun n =>
          decide (s.nodes[n].link = .silent) && s.tables.points[p].refA.val == n.val
        let written := fun p : PointNo => decide (s.tables.source p = .node) && silent p
        Updated { s with
            arbiter := rest, mode := .run, startTimer := .stopped, nodes := t.nodes
            attention := t.attention }
          t written ∧
        ∀ p : PointNo, s.tables.source p = .node → t.points[p] =
          if silent p then { applyStale s.tables.points[p] s.points[p] with hold := .stopped }
          else s.points[p]) ∧
      ∀ (p : PointNo),
        (s.tables.source p = .feed → s.tables.points[p].guard = none →
          t.points[p].latch = s.points[p].latch) ∧
        ∀ e : InterlockNo, s.tables.source p = .feed → s.tables.points[p].guard = some e →
          s.tables.interlocks[e].mode = .rearm →
          t.points[p].latch = (t.feedActive s.tables.points[p].refB || s.points[p].latch))

/-- The grants of an accepted level and of a sample (R15): the LINE points of the input take the level,
inverted if they say so, and the CHANNEL points of the channel the converted measurement; forced points
keep theirs as the withheld intake, FRESH. -/
def Obligations.LevelsAndSamplesWritten : Prop :=
  ∀ (s : State) (rest : List Request), s.tables.resultsBound →
    (∀ (i : InputNo) (level : Bool) (at_ : Nat), s.grants (.lineLevel i level at_) rest → ∃ t,
      exec .lineLevelUpdate s = .next t ∧
      Updated { s with arbiter := rest } t
        (fun q => decide (s.tables.source q = .line) && s.tables.points[q].refA.val == i.val) ∧
      ∀ q : PointNo, s.tables.source q = .line → s.tables.points[q].refA.val = i.val →
        s.tables.points[q].form = .bin →
        t.points[q] =
          if s.isForced q then { s.points[q] with withheld := .fresh (.bit level) }
          else { s.points[q] with
            value := wordOfBool (level != s.tables.points[q].invert), quality := .good }) ∧
    ∀ (k : ChannelNo) (m : Word32) (due : Nat), s.grants (.sample k m due) rest → ∃ t,
      exec .sampleUpdate s = .next t ∧
      Updated { s with arbiter := rest } t
        (fun q => decide (s.tables.source q = .channel) && s.tables.points[q].refA.val == k.val) ∧
      ∀ q : PointNo, s.tables.source q = .channel → s.tables.points[q].refA.val = k.val →
        s.tables.points[q].form = .ana →
        t.points[q] =
          if s.isForced q then { s.points[q] with withheld := .fresh (.measure m) }
          else { s.points[q] with
            value := (s.tables.points[q].clamp (anaScaled s.tables.points[q] m.toInt)).1
            quality := if (s.tables.points[q].clamp (anaScaled s.tables.points[q] m.toInt)).2
              then .limited else .good }

/-! ## Events on the lines -/

/-- How a reception runs (R88, R89), how a telegram ended by a fence is judged (R96), and how a reception
that no exchange or forward awaits ends in a fault: the outcome is counted, LINE_FAULT is set, and the
receiver seeks, or after a fence receives again (R95, R100). The octet that finds 256 collected is the
257th: the reception is OVERLONG. At a closed receiver, which is SEEKING with nothing collected
(CountsStayBounded), none of the line's events does anything (R83). With nothing awaited a good telegram is UNEXPECTED on a node port
(R98), but NOT FOR US if its destination is 0 (R91): that R91 holds here against R98 is the model's choice
(log entry 23, DESIGN CHOICE). Either way it is counted and handed to nobody. -/
def Obligations.ReceptionsOnTheLine : Prop :=
  (∀ content : List Octet,
    let n := content.length
    let octet := fun k => (content.getD k 0).toNat
    let matches_ := content.drop (n - 2) = octets16 (check (content.take (n - 2)))
    (n < 6 → classify content = .error .short) ∧
    (6 ≤ n → ¬ matches_ → classify content = .error .badCheck) ∧
    (6 ≤ n → matches_ → 250 < octet 3 ∨ octet 3 ≠ n - 6 →
      classify content = .error .lengthMismatch) ∧
    (6 ≤ n → matches_ → octet 3 ≤ 250 → octet 3 = n - 6 →
      63 < octet 0 ∨ 63 < octet 1 ∨ octet 2 / 4 % 4 ≠ 0 ∨ octet 2 / 16 = 0 ∨ 12 < octet 2 / 16 →
      classify content = .error .badHeader)) ∧
  ∀ (s : State) (p : Port), s.alive = true →
    let r := s.ports.get p
    let ends := fun (i : Instr) (o : RxOutcome) (next : RxState) =>
      exec i s = .next (setFlag .lineFault (updPort p (fun r => { r with
        rx := next, content := [], bits := [], counters := updOne r.counters o.index bump }) s))
    (r.rx = .seeking → r.rxOpen = true → exec (.openingFence p) s =
      .next (updPort p (fun r => { r with rx := .receiving, content := [], bits := [] }) s)) ∧
    (∀ octet, r.rx = .receiving → r.content.length < 256 →
      exec (.contentOctetCollected p octet) s =
        .next (updPort p (fun r => { r with content := r.content ++ [octet], bits := [] }) s)) ∧
    (r.content = [] → exec (.receptionEndedWithoutOutcome p) s =
      .next (updPort p (fun r => { r with rx := .seeking, bits := [] }) s)) ∧
    (r.rxOpen = false → r.rx = .seeking → r.content = [] → r.bits = [] →
      exec (.openingFence p) s = .next s ∧
      (∀ octet, exec (.contentOctetCollected p octet) s = .next s) ∧
      exec (.telegramEnd p) s = .next s ∧ exec (.receptionBroken p) s = .next s ∧
      exec (.receptionOverlong p) s = .next s ∧
      exec (.receptionEndedWithoutOutcome p) s = .next s) ∧
    (r.rx = .receiving → r.awaited = .nothing ∨ p = .drive →
      (r.content ≠ [] → ends (.receptionBroken p) .broken .seeking) ∧
      (r.content.length = 256 → ends (.receptionOverlong p) .overlong .seeking ∧
        ∀ octet, ends (.contentOctetCollected p octet) .overlong .seeking) ∧
      (∀ o, classify r.content = .error o → ends (.telegramEnd p) o .receiving) ∧
      ∀ t : Telegram, r.content = t.octets → t.payload.length ≤ 250 → p ≠ .drive →
        exec (.telegramEnd p) s = .next (updPort p (fun r => { r with
          content := [], bits := []
          counters := updOne r.counters
            (if t.dest = 0 then RxOutcome.notForUs else .unexpected).index bump }) s))

/-- A good telegram on the drive port (R97, R171): one from the PLC to the junction, or a FORWARD to any
other address but 0, is TAKEN; any other is NOT FOR US. While no telegram is served it is served, and a
management update makes its request; a MANAGE that its own form refuses is answered at once with
UNKNOWN_COMMAND or BAD_LENGTH. While one is served it waits, and with one waiting it is discarded. -/
def Obligations.DriveTelegramTaken : Prop :=
  ∀ (s : State) (t : Telegram), s.alive = true →
    s.ports.drive.rx = .receiving → s.ports.drive.content = t.octets → t.payload.length ≤ 250 →
    let counted := fun o : RxOutcome => updPort .drive (fun r => { r with
      content := [], bits := [], counters := updOne r.counters o.index bump }) s
    let ours := t.src = s.tables.global.plcAddress ∧ t.dest ≠ 0 ∧
      (t.dest = Config.junction ∧
        (t.kind = .exchange ∨ t.kind = .manage ∨ t.kind = .fetch ∨ t.kind = .forward) ∨
        t.kind = .forward)
    (¬ ours → exec (.telegramEnd .drive) s = .next (counted .notForUs)) ∧
    (ours → ∀ k, DriveKind.ofKind t.kind = some k →
      let u : DriveTelegram := ⟨k, t.dest, t.seq, t.payload⟩
      (s.service = none →
        (t.kind ≠ .manage → exec (.telegramEnd .drive) s =
          .next { counted .taken with service := some ⟨u, .toServe⟩ }) ∧
        (∀ c : Command, t.kind = .manage → t.payload = c.payload →
          exec (.telegramEnd .drive) s = .next { counted .taken with
            service := some ⟨u, if c.isUpdate then .requested else .toServe⟩
            arbiter := s.arbiter ++ if c.isUpdate then [.manage c] else [] }) ∧
        ∀ code result, t.kind = .manage → parseManage t.payload = (code, .error result) →
          s.waiting = none → s.ports.drive.sending = none →
          exec (.telegramEnd .drive) s =
            .next (managed s t.seq code (if result = .badLength then [5] else [9]) (counted .taken))) ∧
      (s.service ≠ none →
        (s.waiting = none →
          exec (.telegramEnd .drive) s = .next { counted .taken with waiting := some u }) ∧
        (s.waiting ≠ none → exec (.telegramEnd .drive) s = .next (counted .taken))))

/-- How receptions end the work in flight on a segment. The REPLY awaited, with the sequence of the POLL, is
TAKEN and judged by length, then type: GOOD, FORMAT or IDENTITY (R98, R106, R125); one with another
sequence is counted late, and any other good telegram is NOT FOR US: either ends the exchange as TIMEOUT
only once its window has expired (R126). The FORWARD ANSWER awaited ends its forward ANSWERED; another
sequence or telegram ends it NO_ANSWER only once its window has expired (R143, R144). That an answer of
source 0 is taken and recorded with that address is the model's reading (log entry 28, DEDUCED). A fault
ends the exchange NOISE or the forward GARBLED (R99). What an outcome does to its node another statement
of this list says (LinkStateMoves). -/
def Obligations.AwaitedReceptionsEndWork : Prop :=
  ∀ (s : State) (g : Seg), s.alive = true → (s.ports.get (portOf g)).rx = .receiving →
    let p := portOf g
    let r := s.ports.get p
    let heard := fun (o : RxOutcome) (next : RxState) => updPort p (fun r => { r with
      rx := next, content := [], bits := [], counters := updOne r.counters o.index bump }) s
    let faults := fun after : State → State =>
      let ends := fun (i : Instr) (o : RxOutcome) (next : RxState) =>
        exec i s = .next (after (setFlag .lineFault (heard o next)))
      (r.content ≠ [] → ends (.receptionBroken p) .broken .seeking) ∧
      (r.content.length = 256 → ends (.receptionOverlong p) .overlong .seeking ∧
        ∀ octet, ends (.contentOctetCollected p octet) .overlong .seeking) ∧
      ∀ o, classify r.content = .error o → ends (.telegramEnd p) o .receiving
    let ends := fun (o : RxOutcome) (after : State → State) =>
      exec (.telegramEnd p) s = .next (after (heard o .receiving))
    (∀ (n : NodeNo) (a : Addr), (s.segs.get g).work = .exchange n true → r.awaited = .reply a →
      faults (exchangeEnded g n .noise none) ∧
      ∀ t : Telegram, r.content = t.octets → t.payload.length ≤ 250 →
        let c := s.tables.nodes[n]
        let ours := t.dest = Config.junction ∧ t.kind = .reply ∧ t.src = a
        let whole := t.payload.length = 1 + (c.inputBits + 7) / 8 + 2 * c.inputWords
        let late := fun w => updNode n (fun r => { r with
          counters := updOne r.counters NodeCounter.lateReplies.index bump }) w
        let timeout := exchangeEnded g n .timeout none
        ((s.segs.get g).windowExpired = false →
          (¬ ours → ends .notForUs id) ∧
          (ours → t.seq ≠ s.nodes[n].lastSeq → ends .taken late)) ∧
        ((s.segs.get g).windowExpired = true →
          (¬ ours → ends .notForUs timeout) ∧
          (ours → t.seq ≠ s.nodes[n].lastSeq → ends .taken (timeout ∘ late))) ∧
        (ours → t.seq = s.nodes[n].lastSeq →
          (¬ whole → ends .taken (exchangeEnded g n .format none)) ∧
          (whole → t.payload.head? ≠ some c.expectedType →
            ends .taken (exchangeEnded g n .identity none)) ∧
          (whole → t.payload.head? = some c.expectedType →
            ends .taken (exchangeEnded g n (.good t.payload) none)))) ∧
    ∀ f : Forward, (s.segs.get g).work = .forward → (s.segs.get g).inFlight = some f →
      r.awaited = .forwardAnswer →
      faults (forwardEnded g f .garbled) ∧
      ∀ t : Telegram, r.content = t.octets → t.payload.length ≤ 250 →
        let ours := t.dest = Config.junction ∧ t.kind = .forwardAnswer
        let waits := if (s.segs.get g).answerExpired then forwardEnded g f .noAnswer else id
        (¬ ours → ends .notForUs waits) ∧
        (ours → t.seq.val ≠ f.tag.toNat % 4 → ends .taken waits) ∧
        (ours → t.seq.val = f.tag.toNat % 4 →
          ends .taken (forwardEnded g f (.answered t.src t.payload)))

/-- What an outcome does to its node, by the node's state: the tables of R110 and R111. It is counted (R117),
an IDENTITY miss sets NODE_IDENTITY (R112), and while the node's loss is pending nothing else happens
(R113; that the flag is set then too is log entry 10). A GOOD outcome after which the node is ONLINE
requests its intake (R114), and with it the entry to RUN when the test of R181 first holds: that the test is
made here, at the outcome, is the model's choice (log entry 11, DEDUCED), and `runRequested`, by which it
first holds, is a field of the model's own (log entry 20, DESIGN CHOICE). A miss that comes to the point of
loss requests the loss (R113), which joins the list where RequestsInOrder says. -/
def Obligations.LinkStateMoves : Prop :=
  ∀ (s : State) (n : NodeNo) (o : ExchangeOutcome) (instant : Option Nat),
    let r := s.nodes[n]
    let counter : Fin 8 := match o with
      | .good _ => 1 | .timeout => 2 | .noise => 3 | .format => 4 | .identity => 5
    let moved := fun (u : State) (r' : NodeRt) => nodeOutcome n o instant s =
      { (if o = .identity then setFlag .nodeIdentity u else u) with
        nodes := s.nodes.set n { r' with counters := updOne r.counters counter bump } }
    let online := fun (payload : List Octet) (rise : Bool) =>
      let r' := { r with link := .online, misses := 0, goods := 0 }
      let ready := s.mode = .starting ∧ s.exchangeTaken = true ∧ s.runRequested = false ∧
        ∀ m : NodeNo, m ≠ n → s.tables.nodes[m].enabled = true → s.nodes[m].link = .online
      (¬ ready →
        moved { s with arbiter := s.arbiter ++ [.replyIntake n payload rise] } r') ∧
      (ready → moved { s with
        arbiter := s.arbiter ++ [.replyIntake n payload rise, .entryToRun]
        startTimer := .stopped, runRequested := true } r')
    let lost := moved { s with arbiter := joined s.tables (.nodeLoss n instant) s.arbiter }
      { r with misses := 0, goods := 0, lossPending := true }
    let rejoin := s.tables.nodes[n].rejoinCount
    let limit := s.tables.nodes[n].missLimit
    (r.lossPending = true → moved s r) ∧
    (r.lossPending = false → r.link = .absent → moved s r) ∧
    (∀ payload, o = .good payload → r.lossPending = false →
      (r.link = .silent → online payload true) ∧
      (r.link = .online ∨ r.link = .suspect → online payload false) ∧
      (r.link = .lost → rejoin ≤ 1 → online payload true) ∧
      (r.link = .lost → 2 ≤ rejoin → moved s { r with link := .rejoining, misses := 0, goods := 1 }) ∧
      (r.link = .rejoining → r.goods + 1 < rejoin →
        moved s { r with misses := 0, goods := r.goods + 1 }) ∧
      (r.link = .rejoining → rejoin ≤ r.goods + 1 → online payload true)) ∧
    ((∀ payload, o ≠ .good payload) → r.lossPending = false →
      (r.link = .silent ∨ r.link = .lost → moved s r) ∧
      (r.link = .online → limit ≤ 1 → lost) ∧
      (r.link = .online → 2 ≤ limit → moved s { r with link := .suspect, misses := 1, goods := 0 }) ∧
      (r.link = .suspect → r.misses + 1 < limit →
        moved s { r with misses := r.misses + 1, goods := 0 }) ∧
      (r.link = .suspect → limit ≤ r.misses + 1 → lost) ∧
      (r.link = .rejoining → lost))

/-- The end of a transmission (R83, R84, R125, R142): the transmitter is free and the receiver open in
SEEKING; a POLL's reply window or a forward's answer window starts, a forward without answer ends with its
SENT record, and a telegram that waits for the transmitter goes out, a POLL counted as it does (R124). A port
whose transmission a RESTART fell into is re-initialised first, and the SAFE that waits then goes out (R84,
R135); the mark of it is the model's own (log entry 20, DESIGN CHOICE). -/
def Obligations.TransmissionEnds : Prop :=
  ∀ (s : State) (p : Port) (o : Outgoing), s.alive = true → (s.ports.get p).sending = some o →
    let r := s.ports.get p
    let idle : PortRt :=
      { rx := .seeking, content := [], bits := [], rxOpen := true, sending := none
        awaited := if r.reinit then .nothing else r.awaited
        counters := if r.reinit then Vector.replicate 9 0 else r.counters
        reinit := false }
    let freed := updPort p (fun _ => idle) s
    (p = .drive → s.service = none → exec (.endOfTransmission p) s = .next freed) ∧
    ∀ g, p = portOf g →
      ((s.segs.get g).outbox = [] →
        (∀ n m, o.owner = .poll n → (s.segs.get g).work = .exchange m true →
          exec (.endOfTransmission p) s = .next (updSeg g (fun r => { r with
            window := .running (s.now + replyWindow s g) }) freed)) ∧
        (o.owner = .safe ∨ o.owner = .abandoned → exec (.endOfTransmission p) s = .next freed) ∧
        ∀ f, (s.segs.get g).work = .forward → (s.segs.get g).inFlight = some f →
          (o.owner = .forward true →
            exec (.endOfTransmission p) s = .next (updSeg g (fun r => { r with
              answerWindow := .running (s.now + replyWindow s g) }) freed)) ∧
          (o.owner = .forward false →
            exec (.endOfTransmission p) s = .next (forwardEnded g f .sent freed))) ∧
      ∀ next rest, (s.segs.get g).outbox = next :: rest → o.owner = .safe ∨ o.owner = .abandoned →
        let begun := fun awaited : Awaited =>
          updPort p (fun _ => { idle with rxOpen := false, sending := some next, awaited := awaited }) s
        let sent := fun awaited => exec (.endOfTransmission p) s =
          .next (updSeg g (fun r => { r with outbox := rest }) (begun awaited))
        (next.owner = .safe → sent .nothing) ∧
        (next.owner = .forward true → sent .forwardAnswer) ∧
        (next.owner = .forward false → sent .nothing) ∧
        ∀ n, next.owner = .poll n → (s.segs.get g).work = .exchange n false →
          exec (.endOfTransmission p) s = .next
            (updNode n (fun r => { r with
                counters := updOne r.counters NodeCounter.pollsSent.index bump })
              (updSeg g (fun r => { r with outbox := rest, work := .exchange n true })
                (begun (.reply next.telegram.dest))))

/-! ## Polling -/

/-- A cycle start (R120 to R124, R128 to R130) with poll lists in order: the slot counter advances round the
pattern, and each segment's poll list is formed for the new slot. A segment still in an exchange or a
forward, or in TURNAROUND with nodes left, has overrun: counted and flagged, and the skips counter of each
node it had not polled goes up by 1, its sequence not advanced. One in GAP or DONE takes its next work at
once: it polls the first node of the list, begins its oldest forward, or is in GAP. -/
def Obligations.CycleStartFormsLists : Prop :=
  ∀ (s : State) (due : Nat), s.alive = true → s.cycleTimer = .running due → pollListsKept s →
    let slot := (s.slot + 1) % s.tables.global.patternPeriod
    let late := fun g => (∃ n b, (s.segs.get g).work = .exchange n b) ∨
      (s.segs.get g).work = .forward ∨
      ((s.segs.get g).work = .turnaround ∧ (s.segs.get g).next < (s.segs.get g).pollList.length)
    let idle := fun g => (s.segs.get g).work = .gap ∨ (s.segs.get g).work = .done
    (∀ g, (s.segs.get g).work ≠ .stopped) →
    ∃ t, exec .cycleStart s = .next t ∧
      t = { s with
        now := max s.now due, cycleTimer := .running (due + cyclePeriodUnits s), slot := slot
        segs := t.segs, ports := t.ports, nodes := t.nodes, attention := t.attention } ∧
      t.ports.drive = s.ports.drive ∧
      (∀ f, f ≠ .cycleOverrun → f ≠ .lineFault → t.flag f = s.flag f) ∧
      (t.flag .cycleOverrun = true ↔ s.flag .cycleOverrun = true ∨ ∃ g, late g) ∧
      (∀ n : NodeNo,
        let skipped := ∃ g, late g ∧ n ∈ (s.segs.get g).pollList.drop (s.segs.get g).next
        let polled := fun g => idle g ∧ (t.segs.get g).pollList.head? = some n
        (skipped → t.nodes[n] = { s.nodes[n] with
          counters := updOne s.nodes[n].counters NodeCounter.skips.index bump }) ∧
        (∀ g, polled g → t.nodes[n] = { s.nodes[n] with
          lastSeq := s.nodes[n].lastSeq + 1
          counters := if (s.ports.get (portOf g)).sending = none then
              updOne s.nodes[n].counters NodeCounter.pollsSent.index bump
            else s.nodes[n].counters }) ∧
        (¬ skipped → (∀ g, ¬ polled g) → t.nodes[n] = s.nodes[n])) ∧
      ∀ g,
        let list := (t.segs.get g).pollList
        let port := s.ports.get (portOf g)
        list.Pairwise (· < ·) ∧
        (∀ n : NodeNo, n ∈ list ↔
          s.tables.nodes[n].enabled = true ∧ s.tables.nodes[n].segment = g ∧
            s.tables.nodes[n].pollMask.getLsbD slot = true) ∧
        (late g → t.segs.get g = { s.segs.get g with
            pollList := list, next := 0, forwardSent := false
            overruns := bump (s.segs.get g).overruns } ∧
          t.ports.get (portOf g) = port) ∧
        (¬ late g → ¬ idle g → t.segs.get g = { s.segs.get g with
            pollList := list, next := 0, forwardSent := false } ∧
          t.ports.get (portOf g) = port) ∧
        (idle g →
          (∀ n, list.head? = some n →
            let poll : Outgoing := ⟨⟨s.tables.nodes[n].address, Config.junction, .poll,
              s.nodes[n].lastSeq + 1, pollPayload s n⟩, .poll n⟩
            let polling := fun begun outbox => t.segs.get g = { s.segs.get g with
              pollList := list, next := 1, forwardSent := false, work := .exchange n begun
              outbox := outbox }
            (port.sending = none → polling true (s.segs.get g).outbox ∧
              (port.inProgress = false → t.ports.get (portOf g) = { port with
                rx := .seeking, content := [], bits := [], rxOpen := false, sending := some poll
                awaited := .reply s.tables.nodes[n].address })) ∧
            (port.sending ≠ none → polling false ((s.segs.get g).outbox ++ [poll]) ∧
              t.ports.get (portOf g) = port)) ∧
          (list = [] → (s.segs.get g).queue = [] →
            t.segs.get g = { s.segs.get g with
              pollList := [], next := 0, forwardSent := false, work := .gap } ∧
            t.ports.get (portOf g) = port) ∧
          ∀ f rest, list = [] → (s.segs.get g).queue = f :: rest → port.sending = none →
            t.segs.get g = { s.segs.get g with
              pollList := [], next := 0, forwardSent := true, work := .forward
              inFlight := some f, queue := rest } ∧
            (port.inProgress = false → t.ports.get (portOf g) = { port with
              rx := .seeking, content := [], bits := [], rxOpen := false
              awaited := if f.answerWanted then .forwardAnswer else .nothing
              sending := some ⟨⟨f.dest, Config.junction, .forward, Fin.ofNat 4 f.tag.toNat,
                f.payload⟩, .forward f.answerWanted⟩ }))

/-- A reply window that runs out with no reception in progress is a TIMEOUT of its node, and an answer window
that does so ends its forward with NO_ANSWER (R126, R144); a reception in progress holds either open, and
the expired flag is set. What the outcome does to its node another statement of this list says
(LinkStateMoves). -/
def Obligations.WindowsRunOut : Prop :=
  ∀ (s : State) (g : Seg) (due : Nat), s.alive = true →
    let held := (s.ports.get (portOf g)).rx = .receiving ∧ (s.ports.get (portOf g)).content ≠ []
    let timed := { s with now := max s.now due }
    (∀ n, (s.segs.get g).window = .running due → (s.segs.get g).work = .exchange n true →
      (held → exec (.replyWindowExpiry g) s = .next (updSeg g (fun r => { r with
        window := .stopped, windowExpired := true }) timed)) ∧
      (¬ held → exec (.replyWindowExpiry g) s =
        .next (exchangeEnded g n .timeout (some due) timed))) ∧
    ∀ f, (s.segs.get g).answerWindow = .running due → (s.segs.get g).work = .forward →
      (s.segs.get g).inFlight = some f →
      (held → exec (.answerWindowExpiry g) s = .next (updSeg g (fun r => { r with
        answerWindow := .stopped, answerExpired := true }) timed)) ∧
      (¬ held → exec (.answerWindowExpiry g) s = .next (forwardEnded g f .noAnswer timed))

/-- The end of a turnaround (R85, R123, R124, R127, R128): the next node of the list is polled, or with the
list done the oldest forward begins, or the segment is DONE or waits in GAP. A reception in progress when a
telegram begins is abandoned: counted BROKEN, with LINE_FAULT, and reported to nobody (R83, R95, R100). -/
def Obligations.TurnaroundSelectsWork : Prop :=
  ∀ (s : State) (g : Seg) (due : Nat), s.alive = true →
    (s.segs.get g).turnaround = .running due → (s.segs.get g).work = .turnaround →
    (s.ports.get (portOf g)).sending = none →
    let r := s.segs.get g
    let broken := (s.ports.get (portOf g)).inProgress
    let timed := { s with now := max s.now due }
    let begun := if broken then setFlag .lineFault timed else timed
    let counted := fun r : PortRt =>
      if broken then updOne r.counters RxOutcome.broken.index bump else r.counters
    (∀ n, r.pollList[r.next]? = some n → exec (.turnaroundExpiry g) s = .next { begun with
      nodes := s.nodes.set n { s.nodes[n] with
        lastSeq := s.nodes[n].lastSeq + 1
        counters := updOne s.nodes[n].counters NodeCounter.pollsSent.index bump }
      segs := s.segs.upd g fun r => { r with
        turnaround := .stopped, next := r.next + 1, work := .exchange n true }
      ports := s.ports.upd (portOf g) fun r => { r with
        rx := .seeking, content := [], bits := [], rxOpen := false, counters := counted r
        awaited := .reply s.tables.nodes[n].address
        sending := some ⟨⟨s.tables.nodes[n].address, Config.junction, .poll,
          s.nodes[n].lastSeq + 1, pollPayload s n⟩, .poll n⟩ } }) ∧
    (r.pollList.length ≤ r.next → r.forwardSent = true → exec (.turnaroundExpiry g) s =
      .next (updSeg g (fun r => { r with turnaround := .stopped, work := .done }) timed)) ∧
    (r.pollList.length ≤ r.next → r.forwardSent = false → r.queue = [] →
      exec (.turnaroundExpiry g) s =
        .next (updSeg g (fun r => { r with turnaround := .stopped, work := .gap }) timed)) ∧
    ∀ f rest, r.pollList.length ≤ r.next → r.forwardSent = false → r.queue = f :: rest →
      exec (.turnaroundExpiry g) s = .next { begun with
        segs := s.segs.upd g fun r => { r with
          turnaround := .stopped, work := .forward, forwardSent := true, inFlight := some f
          queue := rest }
        ports := s.ports.upd (portOf g) fun r => { r with
          rx := .seeking, content := [], bits := [], rxOpen := false, counters := counted r
          awaited := if f.answerWanted then .forwardAnswer else .nothing
          sending := some ⟨⟨f.dest, Config.junction, .forward, Fin.ofNat 4 f.tag.toNat, f.payload⟩,
            .forward f.answerWanted⟩ } }

/-! ## Timers of the image, the interlocks and the modes -/

/-- An expiry requests its update and does nothing else (R9, R10, R69, R79, R174, R181); a hold, term or
bypass timer that has expired is marked so until its request is granted or discarded. Where the request
joins the list, by its instant, is what RequestsInOrder says. -/
def Obligations.ExpiriesRequestUpdates : Prop :=
  ∀ (s : State) (due : Nat), s.alive = true →
    let after := fun r : Request =>
      { s with now := max s.now due, arbiter := joined s.tables r s.arbiter }
    (∀ p : PointNo, s.points[p].hold = .running due → exec (.holdTimerExpiry p) s =
      .next { after (.holdExpiry p due) with
        points := s.points.set p { s.points[p] with hold := .expired due } }) ∧
    (∀ (e : InterlockNo) (k : TermNo), s.interlocks[e].terms[k].timer = .running due →
      exec (.termHoldExpiry e k) s = .next { after (.termHold e k due) with
        interlocks := s.interlocks.set e { s.interlocks[e] with
          terms := s.interlocks[e].terms.set k
            { s.interlocks[e].terms[k] with timer := .expired due } } }) ∧
    (∀ (e : InterlockNo), ⟨e, .running due⟩ ∈ s.bypasses → (s.bypasses.map Bypass.entry).Nodup →
      exec (.bypassTimerExpiry e) s = .next { after (.bypassExpiry e due) with
        bypasses := s.bypasses.map fun b =>
          if b.entry = e then ⟨e, .expired due⟩ else b }) ∧
    (s.silenceTimer = .running due → exec .driveSilenceExpiry s =
      .next { after (.driveSilence due) with silenceTimer := .stopped }) ∧
    (s.startTimer = .running due → exec .startTimerExpiry s =
      .next { after (.startTimer due) with startTimer := .stopped })

/-! ## Local lines -/

/-- A local input (R149 to R151): a level that differs from the accepted one is accepted at once without
debounce, or starts the debounce timer; one that returns cancels it. An accepted level is counted,
reaches the trains it enables, and requests its update in STARTING and RUN; where the request joins the
list is what RequestsInOrder says, and what a train makes of the level OutputsTakeValues. -/
def Obligations.InputsDebounced : Prop :=
  ∀ (s : State) (i : InputNo) (level : Bool) (time : Nat), s.alive = true →
    let pin := s.inputs[i].pin
    let now := max s.now time
    let debounce := s.tables.inputs[i].debounce.toNat
    let takes := fun (t : State) (now : Nat) (level : Bool) =>
      t = { s with
        now := now, outputs := t.outputs
        inputs := s.inputs.set i ⟨⟨level, level, .stopped⟩, bump s.inputs[i].changes⟩
        arbiter := if s.mode = .config then s.arbiter
          else joined s.tables (.lineLevel i level now) s.arbiter } ∧
      ∀ o : OutputNo,
        (s.tables.outputs[o].mode ≠ .train ∨ s.tables.outputs[o].enableInput.toNat ≠ i.val →
          t.outputs[o] = s.outputs[o]) ∧
        (s.tables.outputs[o].mode = .train → s.tables.outputs[o].enableInput.toNat = i.val →
          t.outputs[o] = levelToTrain now s.tables.outputs[o] level s.outputs[o])
    (level = pin.line →
      exec (.inputLevelChange i level time) s = .next { s with now := now }) ∧
    (level ≠ pin.line → level = pin.accepted → exec (.inputLevelChange i level time) s =
      .next { s with
        now := now, inputs := s.inputs.set i { s.inputs[i] with
          pin := ⟨level, pin.accepted, .stopped⟩ } }) ∧
    (level ≠ pin.line → level ≠ pin.accepted → 0 < debounce →
      exec (.inputLevelChange i level time) s =
        .next { s with
          now := now, inputs := s.inputs.set i { s.inputs[i] with
            pin := ⟨level, pin.accepted, .running (now + debounce * Config.millisecond)⟩ } }) ∧
    (level ≠ pin.line → level ≠ pin.accepted → debounce = 0 →
      ∃ t, exec (.inputLevelChange i level time) s = .next t ∧ takes t now level) ∧
    ∀ due, pin.timer = .running due → pin.line ≠ pin.accepted →
      ∃ t, exec (.inputDebounceExpiry i) s = .next t ∧ takes t (max s.now due) pin.line

/-- The timers of the local outputs (R154 to R157): the lamp step goes round its pattern and drives every
PATTERN output, a DUTY period starts with its on time, which ends it, and a train changes phase until
its pulses are spent. -/
def Obligations.OutputTimers : Prop :=
  ∀ (s : State) (due : Nat), s.alive = true →
    let now := max s.now due
    (s.lampTimer = .running due → ∃ t, exec .lampStepExpiry s = .next t ∧
      t = { s with
        now := now, lampIndex := (s.lampIndex + 1) % s.tables.global.lampLength
        lampTimer := .running (due + s.tables.global.lampStep * 10 * Config.millisecond)
        outputs := t.outputs } ∧
      ∀ o : OutputNo, t.outputs[o] =
        if s.tables.outputs[o].mode = .pattern then
          { s.outputs[o] with active := decide (s.outputs[o].last ≠ 0) &&
              s.tables.outputs[o].stepMask.getLsbD t.lampIndex }
        else s.outputs[o]) ∧
    ∀ o : OutputNo,
      let rt := s.outputs[o]
      let after := fun rt' : OutputRt => { s with now := now, outputs := s.outputs.set o rt' }
      let high := s.tables.outputs[o].highTime.toNat * 10 * Config.millisecond
      let low := s.tables.outputs[o].lowTime.toNat * 10 * Config.millisecond
      (rt.period = .running due →
        (rt.last = 0 → exec (.periodStart o) s = .next (after { rt with
          active := false, onTimer := .stopped
          period := .running (due + 10 * Config.millisecond) })) ∧
        (rt.last ≠ 0 → exec (.periodStart o) s = .next (after { rt with
          active := true, onTimer := .running (now + rt.last.toNat * 625)
          period := .running (due + 10 * Config.millisecond) }))) ∧
      (rt.onTimer = .running due → exec (.onTimerExpiry o) s =
        .next (after { rt with active := false, onTimer := .stopped })) ∧
      (∀ left, rt.train = .running true (.running due) left → exec (.phaseTimerExpiry o) s =
        .next (after { rt with
          active := false, train := .running false (.running (now + low)) left })) ∧
      (rt.train = .running false (.running due) .endless → exec (.phaseTimerExpiry o) s =
        .next (after { rt with
          active := true, train := .running true (.running (now + high)) .endless })) ∧
      (∀ k, rt.train = .running false (.running due) (.count (k + 2)) →
        exec (.phaseTimerExpiry o) s = .next (after { rt with
          active := true, train := .running true (.running (now + high)) (.count (k + 1)) })) ∧
      (rt.train = .running false (.running due) (.count 1) → exec (.phaseTimerExpiry o) s =
        .next (after { rt with active := false, train := .idle }))

/-- What a local output makes of a value handed to it in STARTING and RUN, by its mode (R64, R153, R154,
R156 to R158), a train paused by its enable input included (R157, R159); in CONFIG it stays as it is. And
what the accepted level of the enable input does to a train (R159). -/
def Obligations.OutputsTakeValues : Prop :=
  (∀ (s : State) (o : OutputNo) (v : Word32),
    let c := s.tables.outputs[o]
    let rt := s.outputs[o]
    let takes := fun rt' : OutputRt =>
      handed s c v rt = (rt', false) ∧ (s.mode ≠ .config → handOver o v s =
        { s with outputs := s.outputs.set o rt' })
    let high := c.highTime.toNat * 10 * Config.millisecond
    let pulses := if v = 255 then Remaining.endless else .count v.toNat
    let paused := ∃ i : InputNo, c.enableInput.toNat = i.val ∧
      s.inputs[i].pin.accepted = c.disablingLevel
    (s.mode = .config → handOver o v s = s) ∧
    (c.mode = .steady → takes { rt with active := decide (v ≠ 0), last := v }) ∧
    (c.mode = .pattern → takes { rt with
      active := decide (v ≠ 0) && c.stepMask.getLsbD s.lampIndex, last := v }) ∧
    (c.mode = .duty →
      (v = 0 → takes { rt with active := false, onTimer := .stopped, last := 0 }) ∧
      (v ≠ 0 → takes { rt with last := v })) ∧
    (c.mode = .train →
      (rt.train = .idle →
        (v = 0 ∨ v = rt.last → takes { rt with last := v }) ∧
        (v ≠ 0 → v ≠ rt.last →
          (¬ paused → takes { rt with
            active := true, train := .running true (.running (s.now + high)) pulses, last := v }) ∧
          (paused → takes { rt with train := .paused true high pulses, last := v }))) ∧
      (rt.train ≠ .idle →
        (v = 0 → takes { rt with train := .idle, active := false, last := 0 }) ∧
        (v ≠ 0 → v = rt.last → takes rt) ∧
        (v ≠ 0 → v ≠ rt.last →
          let rt' := { rt with ignored := bump rt.ignored, last := v }
          handed s c v rt = (rt', true) ∧ (s.mode ≠ .config → handOver o v s =
            setFlag .trainIgnored { s with outputs := s.outputs.set o rt' }))))) ∧
  ∀ (now : Nat) (c : OutputCfg) (level : Bool) (rt : OutputRt),
    (rt.train = .idle → levelToTrain now c level rt = rt) ∧
    (∀ high due left, rt.train = .running high (.running due) left →
      (level ≠ c.disablingLevel → levelToTrain now c level rt = rt) ∧
      (level = c.disablingLevel →
        levelToTrain now c level rt = { rt with train := .paused high (due - now) left })) ∧
    ∀ high time left, rt.train = .paused high time left →
      (level = c.disablingLevel → levelToTrain now c level rt = rt) ∧
      (level ≠ c.disablingLevel → levelToTrain now c level rt =
        { rt with active := high, train := .running high (.running (now + time)) left })

/-! ## Capture channels -/

/-- A capture channel (R162 to R169). A sample carries the measurement as it stands, and a timeout brings the
timed value to 0. A level that differs from the accepted one is accepted at once without debounce, or
starts the debounce timer; one that returns cancels it; the expiry accepts it, an edge. The edge acts by
the channel's mode: COUNT up to its limit or ceiling with CHANNEL_EVENT at the limit, PERIOD, WIDTH, QUAD
by its table with a held position and illegal transitions (edges that one command accepts together are
read as one pair: log entry 5), and on channel 0 the index edge of Z by the index action, which loads a
COUNT preset that START would refuse too (log entry 15, DEDUCED). A count that such a load has left above its
limit stands at the edges of A, and that load leaves reached as it is: the model's choice (log entry 27,
DESIGN CHOICE). Levels that change together act one after
the other but for that pair. Other channels stand. -/
def Obligations.CaptureChannelsMeasure : Prop :=
  ∀ (s : State) (k : ChannelNo) (due time : Nat) (level : Bool), s.alive = true →
    let c := s.tables.channels[k]
    let r := s.channels[k]
    let after := fun (now : Nat) (r' : ChannelRt) =>
      { s with now := max s.now now, channels := s.channels.set k r' }
    let stood := fun d : Debounced => (⟨d.line, d.line, .stopped⟩ : Debounced)
    (r.sample = .running due → exec (.sampleTimerExpiry k) s =
      .next { after due { r with
          sample := .running (due + c.interval * Config.millisecond) } with
        arbiter := joined s.tables (.sample k (measurement c r) due) s.arbiter } ∧
      measurement c r = match c.mode with
        | .off => 0
        | .count => BitVec.ofInt 32 r.count
        | .period | .width => BitVec.ofNat 32 r.timed
        | .quad => BitVec.ofInt 32 r.position) ∧
    (r.timeout = .running due → exec (.channelTimeoutExpiry k) s =
      .next (after due { r with timed := 0, stage := .waiting, timeout := .stopped })) ∧
    -- a level on a pin
    (∀ i : CapInput, i ≠ .z ∨ k = 0 →
      let d := r.input i
      let changes := exec (.captureLevelChange k [(i, level)] time) s
      let now := max s.now time
      (level = d.line → changes = .next { s with now := now }) ∧
      (level ≠ d.line → level = d.accepted →
        changes = .next (after time (r.setInput i ⟨level, d.accepted, .stopped⟩))) ∧
      (level ≠ d.line → level ≠ d.accepted → 0 < c.debounce.toNat →
        changes = .next (after time (r.setInput i
          ⟨level, d.accepted, .running (now + c.debounce.toNat * Config.microsecond)⟩))) ∧
      (level ≠ d.line → level ≠ d.accepted → c.debounce.toNat = 0 →
        changes = exec (.captureDebounceExpiry k [i])
          (after time (r.setInput i ⟨level, d.accepted, .running now⟩)))) ∧
    -- levels on several pins: one after the other, but for A and B of a QUAD channel accepted at once
    (∀ levels : List (CapInput × Bool),
      (Instr.captureLevelChange k levels time).wellFormed = true →
      let pair := c.mode = .quad ∧ c.debounce.toNat = 0 ∧
        (.a, !r.a.accepted) ∈ levels ∧ r.a.line = r.a.accepted ∧
        (.b, !r.b.accepted) ∈ levels ∧ r.b.line = r.b.accepted
      (∀ i x rest t, levels = (i, x) :: rest → ¬ pair ∨ i = .z →
        exec (.captureLevelChange k [(i, x)] time) s = .next t →
        exec (.captureLevelChange k levels time) s = exec (.captureLevelChange k rest time) t) ∧
      (pair → r.lastPair = (r.a.accepted, r.b.accepted) →
        exec (.captureLevelChange k levels time) s =
          exec (.captureLevelChange k (levels.filter fun e => decide (e.1 = .z)) time)
            (setFlag .channelEvent (after time { r with
              a := ⟨!r.a.accepted, !r.a.accepted, .stopped⟩
              b := ⟨!r.b.accepted, !r.b.accepted, .stopped⟩
              lastPair := (!r.a.accepted, !r.b.accepted), errors := bump r.errors })))) ∧
    -- an edge of A
    (r.a.timer = .running due → r.a.line ≠ r.a.accepted →
      let ends := fun r' : ChannelRt => exec (.captureDebounceExpiry k [.a]) s =
        .next (after due { r' with a := stood r.a })
      let rising := r.a.line = true
      let now := max s.now due
      let timeout := Timer.running (now + c.timeout * Config.millisecond)
      (c.mode = .off → ends r) ∧
      (c.mode = .count → ¬ rising → ends r) ∧
      (c.mode = .count → rising → c.limit = 0 →
        (2147483647 ≤ r.count → ends r) ∧
        (r.count < 2147483647 → ends { r with count := r.count + 1 })) ∧
      (c.mode = .count → rising → c.limit ≠ 0 →
        ((c.limit : Int) ≤ r.count → ends r) ∧
        (r.count + 1 < c.limit → r.reached = false → ends { r with count := r.count + 1 }) ∧
        (r.count + 1 = c.limit → r.reached = false →
          exec (.captureDebounceExpiry k [.a]) s = .next (setFlag .channelEvent
            (after due { r with a := stood r.a, count := r.count + 1, reached := true })))) ∧
      (c.mode = .period → ¬ rising → ends r) ∧
      (c.mode = .period → rising →
        (r.stage = .waiting → ends { r with stage := .timing now, timeout := timeout }) ∧
        ∀ since, r.stage = .timing since → ends { r with
          stage := .timing now, timeout := timeout
          timed := max 1 (min 2000000 ((now - since) / 16)) }) ∧
      (c.mode = .width → rising → ends { r with stage := .timing now, timeout := timeout }) ∧
      (c.mode = .width → ¬ rising →
        (r.stage = .waiting → ends { r with timeout := timeout }) ∧
        ∀ since, r.stage = .timing since → ends { r with
          stage := .waiting, timeout := timeout, timed := min 2000000 ((now - since) / 16) })) ∧
    -- an edge of A or B on a QUAD channel, and of B on any other
    (∀ i : CapInput, i = .a ∨ i = .b → (r.input i).timer = .running due →
      (r.input i).line ≠ (r.input i).accepted →
      let pair := if i = .a then (r.a.line, r.b.accepted) else (r.a.accepted, r.b.line)
      let read := { r.setInput i (stood (r.input i)) with lastPair := pair }
      let ends := fun r' : ChannelRt => exec (.captureDebounceExpiry k [i]) s = .next (after due r')
      let forward := [((false, false), (true, false)), ((true, false), (true, true)),
        ((true, true), (false, true)), ((false, true), (false, false))]
      (i = .b → c.mode ≠ .quad → ends (r.setInput i (stood (r.input i)))) ∧
      (c.mode = .quad →
        (pair = r.lastPair → ends read) ∧
        ((r.lastPair, pair) ∈ forward →
          ends { read with position := min 2147483647 (r.position + 1) }) ∧
        ((pair, r.lastPair) ∈ forward →
          ends { read with position := max (-2147483647) (r.position - 1) }) ∧
        (pair.1 ≠ r.lastPair.1 → pair.2 ≠ r.lastPair.2 →
          exec (.captureDebounceExpiry k [i]) s =
            .next (setFlag .channelEvent (after due { read with errors := bump r.errors }))))) ∧
    -- edges of A and B accepted together on a QUAD channel: one pair, both levels changed
    (c.mode = .quad → r.a.timer = .running due → r.b.timer = .running due →
      r.a.line ≠ r.a.accepted → r.b.line ≠ r.b.accepted →
      r.lastPair = (r.a.accepted, r.b.accepted) →
      exec (.captureDebounceExpiry k [.a, .b]) s = .next (setFlag .channelEvent (after due { r with
        a := stood r.a, b := stood r.b, lastPair := (r.a.line, r.b.line)
        errors := bump r.errors }))) ∧
    -- an edge of Z on channel 0
    (k = 0 → r.z.timer = .running due → r.z.line ≠ r.z.accepted →
      let ends := fun r' : ChannelRt => exec (.captureDebounceExpiry k [.z]) s =
        .next (after due { r' with z := stood r.z })
      let loads := r.z.line = true ∧
        (c.index = .presetEvery ∨ (c.index = .presetOnce ∧ r.homed = false))
      (¬ loads → ends r) ∧
      (c.mode ≠ .quad → c.mode ≠ .count → ends r) ∧
      (loads → c.mode = .quad → ends { r with position := c.preset, homed := true }) ∧
      (loads → c.mode = .count →
        let loaded := { r with count := c.preset, homed := true }
        (c.limit = 0 → ends loaded) ∧
        (c.limit ≠ 0 → c.preset < c.limit → ends { loaded with reached := false }) ∧
        (c.limit ≠ 0 → c.limit < c.preset → ends loaded) ∧
        (c.limit ≠ 0 → c.preset = c.limit →
          (r.reached = true → ends loaded) ∧
          (r.reached = false → exec (.captureDebounceExpiry k [.z]) s =
            .next (setFlag .channelEvent
              (after due { loaded with z := stood r.z, reached := true }))))))
end

