-- ==== Sys2Proof/Laws/State.lean ====
section
/-! SUPPORT. What each named update of the state does to each field: one lemma per field per update, so
that no proof unfolds an update. -/

namespace Sys2Proof.Machine

variable (s : State)

/-! ### clockTo -/

section
variable (t : Nat)

@[simp] theorem clockTo_pending : (clockTo t s).pending = s.pending := rfl
@[simp] theorem clockTo_now : (clockTo t s).now = max s.now t := rfl
@[simp] theorem clockTo_powered : (clockTo t s).powered = s.powered := rfl
@[simp] theorem clockTo_resetHeld : (clockTo t s).resetHeld = s.resetHeld := rfl
@[simp] theorem clockTo_mode : (clockTo t s).mode = s.mode := rfl
@[simp] theorem clockTo_tables : (clockTo t s).tables = s.tables := rfl
@[simp] theorem clockTo_points : (clockTo t s).points = s.points := rfl
@[simp] theorem clockTo_forced : (clockTo t s).forced = s.forced := rfl
@[simp] theorem clockTo_arbiter : (clockTo t s).arbiter = s.arbiter := rfl
@[simp] theorem clockTo_trips : (clockTo t s).trips = s.trips := rfl
@[simp] theorem clockTo_interlocks : (clockTo t s).interlocks = s.interlocks := rfl
@[simp] theorem clockTo_bypasses : (clockTo t s).bypasses = s.bypasses := rfl
@[simp] theorem clockTo_ports : (clockTo t s).ports = s.ports := rfl
@[simp] theorem clockTo_nodes : (clockTo t s).nodes = s.nodes := rfl
@[simp] theorem clockTo_cycleTimer : (clockTo t s).cycleTimer = s.cycleTimer := rfl
@[simp] theorem clockTo_slot : (clockTo t s).slot = s.slot := rfl
@[simp] theorem clockTo_segs : (clockTo t s).segs = s.segs := rfl
@[simp] theorem clockTo_returns : (clockTo t s).returns = s.returns := rfl
@[simp] theorem clockTo_tag : (clockTo t s).tag = s.tag := rfl
@[simp] theorem clockTo_inputs : (clockTo t s).inputs = s.inputs := rfl
@[simp] theorem clockTo_outputs : (clockTo t s).outputs = s.outputs := rfl
@[simp] theorem clockTo_lampIndex : (clockTo t s).lampIndex = s.lampIndex := rfl
@[simp] theorem clockTo_lampTimer : (clockTo t s).lampTimer = s.lampTimer := rfl
@[simp] theorem clockTo_channels : (clockTo t s).channels = s.channels := rfl
@[simp] theorem clockTo_service : (clockTo t s).service = s.service := rfl
@[simp] theorem clockTo_waiting : (clockTo t s).waiting = s.waiting := rfl
@[simp] theorem clockTo_startTimer : (clockTo t s).startTimer = s.startTimer := rfl
@[simp] theorem clockTo_silenceTimer : (clockTo t s).silenceTimer = s.silenceTimer := rfl
@[simp] theorem clockTo_exchangeTaken : (clockTo t s).exchangeTaken = s.exchangeTaken := rfl
@[simp] theorem clockTo_plcSilent : (clockTo t s).plcSilent = s.plcSilent := rfl
@[simp] theorem clockTo_runRequested : (clockTo t s).runRequested = s.runRequested := rfl
@[simp] theorem clockTo_attention : (clockTo t s).attention = s.attention := rfl
@[simp] theorem clockTo_mask : (clockTo t s).mask = s.mask := rfl

end

/-! ### setFlag -/

section
variable (f : Attention)

@[simp] theorem setFlag_pending : (setFlag f s).pending = s.pending := rfl
@[simp] theorem setFlag_now : (setFlag f s).now = s.now := rfl
@[simp] theorem setFlag_powered : (setFlag f s).powered = s.powered := rfl
@[simp] theorem setFlag_resetHeld : (setFlag f s).resetHeld = s.resetHeld := rfl
@[simp] theorem setFlag_mode : (setFlag f s).mode = s.mode := rfl
@[simp] theorem setFlag_tables : (setFlag f s).tables = s.tables := rfl
@[simp] theorem setFlag_points : (setFlag f s).points = s.points := rfl
@[simp] theorem setFlag_forced : (setFlag f s).forced = s.forced := rfl
@[simp] theorem setFlag_arbiter : (setFlag f s).arbiter = s.arbiter := rfl
@[simp] theorem setFlag_trips : (setFlag f s).trips = s.trips := rfl
@[simp] theorem setFlag_interlocks : (setFlag f s).interlocks = s.interlocks := rfl
@[simp] theorem setFlag_bypasses : (setFlag f s).bypasses = s.bypasses := rfl
@[simp] theorem setFlag_ports : (setFlag f s).ports = s.ports := rfl
@[simp] theorem setFlag_nodes : (setFlag f s).nodes = s.nodes := rfl
@[simp] theorem setFlag_cycleTimer : (setFlag f s).cycleTimer = s.cycleTimer := rfl
@[simp] theorem setFlag_slot : (setFlag f s).slot = s.slot := rfl
@[simp] theorem setFlag_segs : (setFlag f s).segs = s.segs := rfl
@[simp] theorem setFlag_returns : (setFlag f s).returns = s.returns := rfl
@[simp] theorem setFlag_tag : (setFlag f s).tag = s.tag := rfl
@[simp] theorem setFlag_inputs : (setFlag f s).inputs = s.inputs := rfl
@[simp] theorem setFlag_outputs : (setFlag f s).outputs = s.outputs := rfl
@[simp] theorem setFlag_lampIndex : (setFlag f s).lampIndex = s.lampIndex := rfl
@[simp] theorem setFlag_lampTimer : (setFlag f s).lampTimer = s.lampTimer := rfl
@[simp] theorem setFlag_channels : (setFlag f s).channels = s.channels := rfl
@[simp] theorem setFlag_service : (setFlag f s).service = s.service := rfl
@[simp] theorem setFlag_waiting : (setFlag f s).waiting = s.waiting := rfl
@[simp] theorem setFlag_startTimer : (setFlag f s).startTimer = s.startTimer := rfl
@[simp] theorem setFlag_silenceTimer : (setFlag f s).silenceTimer = s.silenceTimer := rfl
@[simp] theorem setFlag_exchangeTaken : (setFlag f s).exchangeTaken = s.exchangeTaken := rfl
@[simp] theorem setFlag_plcSilent : (setFlag f s).plcSilent = s.plcSilent := rfl
@[simp] theorem setFlag_runRequested : (setFlag f s).runRequested = s.runRequested := rfl
@[simp] theorem setFlag_attention : (setFlag f s).attention = s.attention ||| (1 <<< f.bit) := rfl
@[simp] theorem setFlag_mask : (setFlag f s).mask = s.mask := rfl

end

/-! ### setFlagIf -/

section
variable (c : Bool) (f : Attention)

@[simp] theorem setFlagIf_pending : (setFlagIf c f s).pending = s.pending := by cases c <;> rfl
@[simp] theorem setFlagIf_now : (setFlagIf c f s).now = s.now := by cases c <;> rfl
@[simp] theorem setFlagIf_powered : (setFlagIf c f s).powered = s.powered := by cases c <;> rfl
@[simp] theorem setFlagIf_resetHeld : (setFlagIf c f s).resetHeld = s.resetHeld := by cases c <;> rfl
@[simp] theorem setFlagIf_mode : (setFlagIf c f s).mode = s.mode := by cases c <;> rfl
@[simp] theorem setFlagIf_tables : (setFlagIf c f s).tables = s.tables := by cases c <;> rfl
@[simp] theorem setFlagIf_points : (setFlagIf c f s).points = s.points := by cases c <;> rfl
@[simp] theorem setFlagIf_forced : (setFlagIf c f s).forced = s.forced := by cases c <;> rfl
@[simp] theorem setFlagIf_arbiter : (setFlagIf c f s).arbiter = s.arbiter := by cases c <;> rfl
@[simp] theorem setFlagIf_trips : (setFlagIf c f s).trips = s.trips := by cases c <;> rfl
@[simp] theorem setFlagIf_interlocks : (setFlagIf c f s).interlocks = s.interlocks := by cases c <;> rfl
@[simp] theorem setFlagIf_bypasses : (setFlagIf c f s).bypasses = s.bypasses := by cases c <;> rfl
@[simp] theorem setFlagIf_ports : (setFlagIf c f s).ports = s.ports := by cases c <;> rfl
@[simp] theorem setFlagIf_nodes : (setFlagIf c f s).nodes = s.nodes := by cases c <;> rfl
@[simp] theorem setFlagIf_cycleTimer : (setFlagIf c f s).cycleTimer = s.cycleTimer := by cases c <;> rfl
@[simp] theorem setFlagIf_slot : (setFlagIf c f s).slot = s.slot := by cases c <;> rfl
@[simp] theorem setFlagIf_segs : (setFlagIf c f s).segs = s.segs := by cases c <;> rfl
@[simp] theorem setFlagIf_returns : (setFlagIf c f s).returns = s.returns := by cases c <;> rfl
@[simp] theorem setFlagIf_tag : (setFlagIf c f s).tag = s.tag := by cases c <;> rfl
@[simp] theorem setFlagIf_inputs : (setFlagIf c f s).inputs = s.inputs := by cases c <;> rfl
@[simp] theorem setFlagIf_outputs : (setFlagIf c f s).outputs = s.outputs := by cases c <;> rfl
@[simp] theorem setFlagIf_lampIndex : (setFlagIf c f s).lampIndex = s.lampIndex := by cases c <;> rfl
@[simp] theorem setFlagIf_lampTimer : (setFlagIf c f s).lampTimer = s.lampTimer := by cases c <;> rfl
@[simp] theorem setFlagIf_channels : (setFlagIf c f s).channels = s.channels := by cases c <;> rfl
@[simp] theorem setFlagIf_service : (setFlagIf c f s).service = s.service := by cases c <;> rfl
@[simp] theorem setFlagIf_waiting : (setFlagIf c f s).waiting = s.waiting := by cases c <;> rfl
@[simp] theorem setFlagIf_startTimer : (setFlagIf c f s).startTimer = s.startTimer := by cases c <;> rfl
@[simp] theorem setFlagIf_silenceTimer : (setFlagIf c f s).silenceTimer = s.silenceTimer := by cases c <;> rfl
@[simp] theorem setFlagIf_exchangeTaken : (setFlagIf c f s).exchangeTaken = s.exchangeTaken := by cases c <;> rfl
@[simp] theorem setFlagIf_plcSilent : (setFlagIf c f s).plcSilent = s.plcSilent := by cases c <;> rfl
@[simp] theorem setFlagIf_runRequested : (setFlagIf c f s).runRequested = s.runRequested := by cases c <;> rfl
@[simp] theorem setFlagIf_attention : (setFlagIf c f s).attention = if c then s.attention ||| (1 <<< f.bit) else s.attention := by cases c <;> rfl
@[simp] theorem setFlagIf_mask : (setFlagIf c f s).mask = s.mask := by cases c <;> rfl

end

/-! ### updPort -/

section
variable (p : Port) (f : PortRt → PortRt)

@[simp] theorem updPort_pending : (updPort p f s).pending = s.pending := rfl
@[simp] theorem updPort_now : (updPort p f s).now = s.now := rfl
@[simp] theorem updPort_powered : (updPort p f s).powered = s.powered := rfl
@[simp] theorem updPort_resetHeld : (updPort p f s).resetHeld = s.resetHeld := rfl
@[simp] theorem updPort_mode : (updPort p f s).mode = s.mode := rfl
@[simp] theorem updPort_tables : (updPort p f s).tables = s.tables := rfl
@[simp] theorem updPort_points : (updPort p f s).points = s.points := rfl
@[simp] theorem updPort_forced : (updPort p f s).forced = s.forced := rfl
@[simp] theorem updPort_arbiter : (updPort p f s).arbiter = s.arbiter := rfl
@[simp] theorem updPort_trips : (updPort p f s).trips = s.trips := rfl
@[simp] theorem updPort_interlocks : (updPort p f s).interlocks = s.interlocks := rfl
@[simp] theorem updPort_bypasses : (updPort p f s).bypasses = s.bypasses := rfl
@[simp] theorem updPort_ports : (updPort p f s).ports = s.ports.upd p f := rfl
@[simp] theorem updPort_nodes : (updPort p f s).nodes = s.nodes := rfl
@[simp] theorem updPort_cycleTimer : (updPort p f s).cycleTimer = s.cycleTimer := rfl
@[simp] theorem updPort_slot : (updPort p f s).slot = s.slot := rfl
@[simp] theorem updPort_segs : (updPort p f s).segs = s.segs := rfl
@[simp] theorem updPort_returns : (updPort p f s).returns = s.returns := rfl
@[simp] theorem updPort_tag : (updPort p f s).tag = s.tag := rfl
@[simp] theorem updPort_inputs : (updPort p f s).inputs = s.inputs := rfl
@[simp] theorem updPort_outputs : (updPort p f s).outputs = s.outputs := rfl
@[simp] theorem updPort_lampIndex : (updPort p f s).lampIndex = s.lampIndex := rfl
@[simp] theorem updPort_lampTimer : (updPort p f s).lampTimer = s.lampTimer := rfl
@[simp] theorem updPort_channels : (updPort p f s).channels = s.channels := rfl
@[simp] theorem updPort_service : (updPort p f s).service = s.service := rfl
@[simp] theorem updPort_waiting : (updPort p f s).waiting = s.waiting := rfl
@[simp] theorem updPort_startTimer : (updPort p f s).startTimer = s.startTimer := rfl
@[simp] theorem updPort_silenceTimer : (updPort p f s).silenceTimer = s.silenceTimer := rfl
@[simp] theorem updPort_exchangeTaken : (updPort p f s).exchangeTaken = s.exchangeTaken := rfl
@[simp] theorem updPort_plcSilent : (updPort p f s).plcSilent = s.plcSilent := rfl
@[simp] theorem updPort_runRequested : (updPort p f s).runRequested = s.runRequested := rfl
@[simp] theorem updPort_attention : (updPort p f s).attention = s.attention := rfl
@[simp] theorem updPort_mask : (updPort p f s).mask = s.mask := rfl

end

/-! ### updSeg -/

section
variable (g : Seg) (f : SegRt → SegRt)

@[simp] theorem updSeg_pending : (updSeg g f s).pending = s.pending := rfl
@[simp] theorem updSeg_now : (updSeg g f s).now = s.now := rfl
@[simp] theorem updSeg_powered : (updSeg g f s).powered = s.powered := rfl
@[simp] theorem updSeg_resetHeld : (updSeg g f s).resetHeld = s.resetHeld := rfl
@[simp] theorem updSeg_mode : (updSeg g f s).mode = s.mode := rfl
@[simp] theorem updSeg_tables : (updSeg g f s).tables = s.tables := rfl
@[simp] theorem updSeg_points : (updSeg g f s).points = s.points := rfl
@[simp] theorem updSeg_forced : (updSeg g f s).forced = s.forced := rfl
@[simp] theorem updSeg_arbiter : (updSeg g f s).arbiter = s.arbiter := rfl
@[simp] theorem updSeg_trips : (updSeg g f s).trips = s.trips := rfl
@[simp] theorem updSeg_interlocks : (updSeg g f s).interlocks = s.interlocks := rfl
@[simp] theorem updSeg_bypasses : (updSeg g f s).bypasses = s.bypasses := rfl
@[simp] theorem updSeg_ports : (updSeg g f s).ports = s.ports := rfl
@[simp] theorem updSeg_nodes : (updSeg g f s).nodes = s.nodes := rfl
@[simp] theorem updSeg_cycleTimer : (updSeg g f s).cycleTimer = s.cycleTimer := rfl
@[simp] theorem updSeg_slot : (updSeg g f s).slot = s.slot := rfl
@[simp] theorem updSeg_segs : (updSeg g f s).segs = s.segs.upd g f := rfl
@[simp] theorem updSeg_returns : (updSeg g f s).returns = s.returns := rfl
@[simp] theorem updSeg_tag : (updSeg g f s).tag = s.tag := rfl
@[simp] theorem updSeg_inputs : (updSeg g f s).inputs = s.inputs := rfl
@[simp] theorem updSeg_outputs : (updSeg g f s).outputs = s.outputs := rfl
@[simp] theorem updSeg_lampIndex : (updSeg g f s).lampIndex = s.lampIndex := rfl
@[simp] theorem updSeg_lampTimer : (updSeg g f s).lampTimer = s.lampTimer := rfl
@[simp] theorem updSeg_channels : (updSeg g f s).channels = s.channels := rfl
@[simp] theorem updSeg_service : (updSeg g f s).service = s.service := rfl
@[simp] theorem updSeg_waiting : (updSeg g f s).waiting = s.waiting := rfl
@[simp] theorem updSeg_startTimer : (updSeg g f s).startTimer = s.startTimer := rfl
@[simp] theorem updSeg_silenceTimer : (updSeg g f s).silenceTimer = s.silenceTimer := rfl
@[simp] theorem updSeg_exchangeTaken : (updSeg g f s).exchangeTaken = s.exchangeTaken := rfl
@[simp] theorem updSeg_plcSilent : (updSeg g f s).plcSilent = s.plcSilent := rfl
@[simp] theorem updSeg_runRequested : (updSeg g f s).runRequested = s.runRequested := rfl
@[simp] theorem updSeg_attention : (updSeg g f s).attention = s.attention := rfl
@[simp] theorem updSeg_mask : (updSeg g f s).mask = s.mask := rfl

end

/-! ### updPoint -/

section
variable (p : PointNo) (f : PointRt → PointRt)

@[simp] theorem updPoint_pending : (updPoint p f s).pending = s.pending := rfl
@[simp] theorem updPoint_now : (updPoint p f s).now = s.now := rfl
@[simp] theorem updPoint_powered : (updPoint p f s).powered = s.powered := rfl
@[simp] theorem updPoint_resetHeld : (updPoint p f s).resetHeld = s.resetHeld := rfl
@[simp] theorem updPoint_mode : (updPoint p f s).mode = s.mode := rfl
@[simp] theorem updPoint_tables : (updPoint p f s).tables = s.tables := rfl
@[simp] theorem updPoint_points : (updPoint p f s).points = updOne s.points p f := rfl
@[simp] theorem updPoint_forced : (updPoint p f s).forced = s.forced := rfl
@[simp] theorem updPoint_arbiter : (updPoint p f s).arbiter = s.arbiter := rfl
@[simp] theorem updPoint_trips : (updPoint p f s).trips = s.trips := rfl
@[simp] theorem updPoint_interlocks : (updPoint p f s).interlocks = s.interlocks := rfl
@[simp] theorem updPoint_bypasses : (updPoint p f s).bypasses = s.bypasses := rfl
@[simp] theorem updPoint_ports : (updPoint p f s).ports = s.ports := rfl
@[simp] theorem updPoint_nodes : (updPoint p f s).nodes = s.nodes := rfl
@[simp] theorem updPoint_cycleTimer : (updPoint p f s).cycleTimer = s.cycleTimer := rfl
@[simp] theorem updPoint_slot : (updPoint p f s).slot = s.slot := rfl
@[simp] theorem updPoint_segs : (updPoint p f s).segs = s.segs := rfl
@[simp] theorem updPoint_returns : (updPoint p f s).returns = s.returns := rfl
@[simp] theorem updPoint_tag : (updPoint p f s).tag = s.tag := rfl
@[simp] theorem updPoint_inputs : (updPoint p f s).inputs = s.inputs := rfl
@[simp] theorem updPoint_outputs : (updPoint p f s).outputs = s.outputs := rfl
@[simp] theorem updPoint_lampIndex : (updPoint p f s).lampIndex = s.lampIndex := rfl
@[simp] theorem updPoint_lampTimer : (updPoint p f s).lampTimer = s.lampTimer := rfl
@[simp] theorem updPoint_channels : (updPoint p f s).channels = s.channels := rfl
@[simp] theorem updPoint_service : (updPoint p f s).service = s.service := rfl
@[simp] theorem updPoint_waiting : (updPoint p f s).waiting = s.waiting := rfl
@[simp] theorem updPoint_startTimer : (updPoint p f s).startTimer = s.startTimer := rfl
@[simp] theorem updPoint_silenceTimer : (updPoint p f s).silenceTimer = s.silenceTimer := rfl
@[simp] theorem updPoint_exchangeTaken : (updPoint p f s).exchangeTaken = s.exchangeTaken := rfl
@[simp] theorem updPoint_plcSilent : (updPoint p f s).plcSilent = s.plcSilent := rfl
@[simp] theorem updPoint_runRequested : (updPoint p f s).runRequested = s.runRequested := rfl
@[simp] theorem updPoint_attention : (updPoint p f s).attention = s.attention := rfl
@[simp] theorem updPoint_mask : (updPoint p f s).mask = s.mask := rfl

end

/-! ### updNode -/

section
variable (n : NodeNo) (f : NodeRt → NodeRt)

@[simp] theorem updNode_pending : (updNode n f s).pending = s.pending := rfl
@[simp] theorem updNode_now : (updNode n f s).now = s.now := rfl
@[simp] theorem updNode_powered : (updNode n f s).powered = s.powered := rfl
@[simp] theorem updNode_resetHeld : (updNode n f s).resetHeld = s.resetHeld := rfl
@[simp] theorem updNode_mode : (updNode n f s).mode = s.mode := rfl
@[simp] theorem updNode_tables : (updNode n f s).tables = s.tables := rfl
@[simp] theorem updNode_points : (updNode n f s).points = s.points := rfl
@[simp] theorem updNode_forced : (updNode n f s).forced = s.forced := rfl
@[simp] theorem updNode_arbiter : (updNode n f s).arbiter = s.arbiter := rfl
@[simp] theorem updNode_trips : (updNode n f s).trips = s.trips := rfl
@[simp] theorem updNode_interlocks : (updNode n f s).interlocks = s.interlocks := rfl
@[simp] theorem updNode_bypasses : (updNode n f s).bypasses = s.bypasses := rfl
@[simp] theorem updNode_ports : (updNode n f s).ports = s.ports := rfl
@[simp] theorem updNode_nodes : (updNode n f s).nodes = updOne s.nodes n f := rfl
@[simp] theorem updNode_cycleTimer : (updNode n f s).cycleTimer = s.cycleTimer := rfl
@[simp] theorem updNode_slot : (updNode n f s).slot = s.slot := rfl
@[simp] theorem updNode_segs : (updNode n f s).segs = s.segs := rfl
@[simp] theorem updNode_returns : (updNode n f s).returns = s.returns := rfl
@[simp] theorem updNode_tag : (updNode n f s).tag = s.tag := rfl
@[simp] theorem updNode_inputs : (updNode n f s).inputs = s.inputs := rfl
@[simp] theorem updNode_outputs : (updNode n f s).outputs = s.outputs := rfl
@[simp] theorem updNode_lampIndex : (updNode n f s).lampIndex = s.lampIndex := rfl
@[simp] theorem updNode_lampTimer : (updNode n f s).lampTimer = s.lampTimer := rfl
@[simp] theorem updNode_channels : (updNode n f s).channels = s.channels := rfl
@[simp] theorem updNode_service : (updNode n f s).service = s.service := rfl
@[simp] theorem updNode_waiting : (updNode n f s).waiting = s.waiting := rfl
@[simp] theorem updNode_startTimer : (updNode n f s).startTimer = s.startTimer := rfl
@[simp] theorem updNode_silenceTimer : (updNode n f s).silenceTimer = s.silenceTimer := rfl
@[simp] theorem updNode_exchangeTaken : (updNode n f s).exchangeTaken = s.exchangeTaken := rfl
@[simp] theorem updNode_plcSilent : (updNode n f s).plcSilent = s.plcSilent := rfl
@[simp] theorem updNode_runRequested : (updNode n f s).runRequested = s.runRequested := rfl
@[simp] theorem updNode_attention : (updNode n f s).attention = s.attention := rfl
@[simp] theorem updNode_mask : (updNode n f s).mask = s.mask := rfl

end

/-! ### updOutput -/

section
variable (o : OutputNo) (f : OutputRt → OutputRt)

@[simp] theorem updOutput_pending : (updOutput o f s).pending = s.pending := rfl
@[simp] theorem updOutput_now : (updOutput o f s).now = s.now := rfl
@[simp] theorem updOutput_powered : (updOutput o f s).powered = s.powered := rfl
@[simp] theorem updOutput_resetHeld : (updOutput o f s).resetHeld = s.resetHeld := rfl
@[simp] theorem updOutput_mode : (updOutput o f s).mode = s.mode := rfl
@[simp] theorem updOutput_tables : (updOutput o f s).tables = s.tables := rfl
@[simp] theorem updOutput_points : (updOutput o f s).points = s.points := rfl
@[simp] theorem updOutput_forced : (updOutput o f s).forced = s.forced := rfl
@[simp] theorem updOutput_arbiter : (updOutput o f s).arbiter = s.arbiter := rfl
@[simp] theorem updOutput_trips : (updOutput o f s).trips = s.trips := rfl
@[simp] theorem updOutput_interlocks : (updOutput o f s).interlocks = s.interlocks := rfl
@[simp] theorem updOutput_bypasses : (updOutput o f s).bypasses = s.bypasses := rfl
@[simp] theorem updOutput_ports : (updOutput o f s).ports = s.ports := rfl
@[simp] theorem updOutput_nodes : (updOutput o f s).nodes = s.nodes := rfl
@[simp] theorem updOutput_cycleTimer : (updOutput o f s).cycleTimer = s.cycleTimer := rfl
@[simp] theorem updOutput_slot : (updOutput o f s).slot = s.slot := rfl
@[simp] theorem updOutput_segs : (updOutput o f s).segs = s.segs := rfl
@[simp] theorem updOutput_returns : (updOutput o f s).returns = s.returns := rfl
@[simp] theorem updOutput_tag : (updOutput o f s).tag = s.tag := rfl
@[simp] theorem updOutput_inputs : (updOutput o f s).inputs = s.inputs := rfl
@[simp] theorem updOutput_outputs : (updOutput o f s).outputs = updOne s.outputs o f := rfl
@[simp] theorem updOutput_lampIndex : (updOutput o f s).lampIndex = s.lampIndex := rfl
@[simp] theorem updOutput_lampTimer : (updOutput o f s).lampTimer = s.lampTimer := rfl
@[simp] theorem updOutput_channels : (updOutput o f s).channels = s.channels := rfl
@[simp] theorem updOutput_service : (updOutput o f s).service = s.service := rfl
@[simp] theorem updOutput_waiting : (updOutput o f s).waiting = s.waiting := rfl
@[simp] theorem updOutput_startTimer : (updOutput o f s).startTimer = s.startTimer := rfl
@[simp] theorem updOutput_silenceTimer : (updOutput o f s).silenceTimer = s.silenceTimer := rfl
@[simp] theorem updOutput_exchangeTaken : (updOutput o f s).exchangeTaken = s.exchangeTaken := rfl
@[simp] theorem updOutput_plcSilent : (updOutput o f s).plcSilent = s.plcSilent := rfl
@[simp] theorem updOutput_runRequested : (updOutput o f s).runRequested = s.runRequested := rfl
@[simp] theorem updOutput_attention : (updOutput o f s).attention = s.attention := rfl
@[simp] theorem updOutput_mask : (updOutput o f s).mask = s.mask := rfl

end

/-! ### updInput -/

section
variable (i : InputNo) (f : InputRt → InputRt)

@[simp] theorem updInput_pending : (updInput i f s).pending = s.pending := rfl
@[simp] theorem updInput_now : (updInput i f s).now = s.now := rfl
@[simp] theorem updInput_powered : (updInput i f s).powered = s.powered := rfl
@[simp] theorem updInput_resetHeld : (updInput i f s).resetHeld = s.resetHeld := rfl
@[simp] theorem updInput_mode : (updInput i f s).mode = s.mode := rfl
@[simp] theorem updInput_tables : (updInput i f s).tables = s.tables := rfl
@[simp] theorem updInput_points : (updInput i f s).points = s.points := rfl
@[simp] theorem updInput_forced : (updInput i f s).forced = s.forced := rfl
@[simp] theorem updInput_arbiter : (updInput i f s).arbiter = s.arbiter := rfl
@[simp] theorem updInput_trips : (updInput i f s).trips = s.trips := rfl
@[simp] theorem updInput_interlocks : (updInput i f s).interlocks = s.interlocks := rfl
@[simp] theorem updInput_bypasses : (updInput i f s).bypasses = s.bypasses := rfl
@[simp] theorem updInput_ports : (updInput i f s).ports = s.ports := rfl
@[simp] theorem updInput_nodes : (updInput i f s).nodes = s.nodes := rfl
@[simp] theorem updInput_cycleTimer : (updInput i f s).cycleTimer = s.cycleTimer := rfl
@[simp] theorem updInput_slot : (updInput i f s).slot = s.slot := rfl
@[simp] theorem updInput_segs : (updInput i f s).segs = s.segs := rfl
@[simp] theorem updInput_returns : (updInput i f s).returns = s.returns := rfl
@[simp] theorem updInput_tag : (updInput i f s).tag = s.tag := rfl
@[simp] theorem updInput_inputs : (updInput i f s).inputs = updOne s.inputs i f := rfl
@[simp] theorem updInput_outputs : (updInput i f s).outputs = s.outputs := rfl
@[simp] theorem updInput_lampIndex : (updInput i f s).lampIndex = s.lampIndex := rfl
@[simp] theorem updInput_lampTimer : (updInput i f s).lampTimer = s.lampTimer := rfl
@[simp] theorem updInput_channels : (updInput i f s).channels = s.channels := rfl
@[simp] theorem updInput_service : (updInput i f s).service = s.service := rfl
@[simp] theorem updInput_waiting : (updInput i f s).waiting = s.waiting := rfl
@[simp] theorem updInput_startTimer : (updInput i f s).startTimer = s.startTimer := rfl
@[simp] theorem updInput_silenceTimer : (updInput i f s).silenceTimer = s.silenceTimer := rfl
@[simp] theorem updInput_exchangeTaken : (updInput i f s).exchangeTaken = s.exchangeTaken := rfl
@[simp] theorem updInput_plcSilent : (updInput i f s).plcSilent = s.plcSilent := rfl
@[simp] theorem updInput_runRequested : (updInput i f s).runRequested = s.runRequested := rfl
@[simp] theorem updInput_attention : (updInput i f s).attention = s.attention := rfl
@[simp] theorem updInput_mask : (updInput i f s).mask = s.mask := rfl

end

/-! ### updChannel -/

section
variable (k : ChannelNo) (f : ChannelRt → ChannelRt)

@[simp] theorem updChannel_pending : (updChannel k f s).pending = s.pending := rfl
@[simp] theorem updChannel_now : (updChannel k f s).now = s.now := rfl
@[simp] theorem updChannel_powered : (updChannel k f s).powered = s.powered := rfl
@[simp] theorem updChannel_resetHeld : (updChannel k f s).resetHeld = s.resetHeld := rfl
@[simp] theorem updChannel_mode : (updChannel k f s).mode = s.mode := rfl
@[simp] theorem updChannel_tables : (updChannel k f s).tables = s.tables := rfl
@[simp] theorem updChannel_points : (updChannel k f s).points = s.points := rfl
@[simp] theorem updChannel_forced : (updChannel k f s).forced = s.forced := rfl
@[simp] theorem updChannel_arbiter : (updChannel k f s).arbiter = s.arbiter := rfl
@[simp] theorem updChannel_trips : (updChannel k f s).trips = s.trips := rfl
@[simp] theorem updChannel_interlocks : (updChannel k f s).interlocks = s.interlocks := rfl
@[simp] theorem updChannel_bypasses : (updChannel k f s).bypasses = s.bypasses := rfl
@[simp] theorem updChannel_ports : (updChannel k f s).ports = s.ports := rfl
@[simp] theorem updChannel_nodes : (updChannel k f s).nodes = s.nodes := rfl
@[simp] theorem updChannel_cycleTimer : (updChannel k f s).cycleTimer = s.cycleTimer := rfl
@[simp] theorem updChannel_slot : (updChannel k f s).slot = s.slot := rfl
@[simp] theorem updChannel_segs : (updChannel k f s).segs = s.segs := rfl
@[simp] theorem updChannel_returns : (updChannel k f s).returns = s.returns := rfl
@[simp] theorem updChannel_tag : (updChannel k f s).tag = s.tag := rfl
@[simp] theorem updChannel_inputs : (updChannel k f s).inputs = s.inputs := rfl
@[simp] theorem updChannel_outputs : (updChannel k f s).outputs = s.outputs := rfl
@[simp] theorem updChannel_lampIndex : (updChannel k f s).lampIndex = s.lampIndex := rfl
@[simp] theorem updChannel_lampTimer : (updChannel k f s).lampTimer = s.lampTimer := rfl
@[simp] theorem updChannel_channels : (updChannel k f s).channels = updOne s.channels k f := rfl
@[simp] theorem updChannel_service : (updChannel k f s).service = s.service := rfl
@[simp] theorem updChannel_waiting : (updChannel k f s).waiting = s.waiting := rfl
@[simp] theorem updChannel_startTimer : (updChannel k f s).startTimer = s.startTimer := rfl
@[simp] theorem updChannel_silenceTimer : (updChannel k f s).silenceTimer = s.silenceTimer := rfl
@[simp] theorem updChannel_exchangeTaken : (updChannel k f s).exchangeTaken = s.exchangeTaken := rfl
@[simp] theorem updChannel_plcSilent : (updChannel k f s).plcSilent = s.plcSilent := rfl
@[simp] theorem updChannel_runRequested : (updChannel k f s).runRequested = s.runRequested := rfl
@[simp] theorem updChannel_attention : (updChannel k f s).attention = s.attention := rfl
@[simp] theorem updChannel_mask : (updChannel k f s).mask = s.mask := rfl

end

/-! ### request -/

section
variable (r : Request)

@[simp] theorem request_pending : (request r s).pending = s.pending := rfl
@[simp] theorem request_now : (request r s).now = s.now := rfl
@[simp] theorem request_powered : (request r s).powered = s.powered := rfl
@[simp] theorem request_resetHeld : (request r s).resetHeld = s.resetHeld := rfl
@[simp] theorem request_mode : (request r s).mode = s.mode := rfl
@[simp] theorem request_tables : (request r s).tables = s.tables := rfl
@[simp] theorem request_points : (request r s).points = s.points := rfl
@[simp] theorem request_forced : (request r s).forced = s.forced := rfl
@[simp] theorem request_arbiter : (request r s).arbiter = joined s.tables r s.arbiter := rfl
@[simp] theorem request_trips : (request r s).trips = s.trips := rfl
@[simp] theorem request_interlocks : (request r s).interlocks = s.interlocks := rfl
@[simp] theorem request_bypasses : (request r s).bypasses = s.bypasses := rfl
@[simp] theorem request_ports : (request r s).ports = s.ports := rfl
@[simp] theorem request_nodes : (request r s).nodes = s.nodes := rfl
@[simp] theorem request_cycleTimer : (request r s).cycleTimer = s.cycleTimer := rfl
@[simp] theorem request_slot : (request r s).slot = s.slot := rfl
@[simp] theorem request_segs : (request r s).segs = s.segs := rfl
@[simp] theorem request_returns : (request r s).returns = s.returns := rfl
@[simp] theorem request_tag : (request r s).tag = s.tag := rfl
@[simp] theorem request_inputs : (request r s).inputs = s.inputs := rfl
@[simp] theorem request_outputs : (request r s).outputs = s.outputs := rfl
@[simp] theorem request_lampIndex : (request r s).lampIndex = s.lampIndex := rfl
@[simp] theorem request_lampTimer : (request r s).lampTimer = s.lampTimer := rfl
@[simp] theorem request_channels : (request r s).channels = s.channels := rfl
@[simp] theorem request_service : (request r s).service = s.service := rfl
@[simp] theorem request_waiting : (request r s).waiting = s.waiting := rfl
@[simp] theorem request_startTimer : (request r s).startTimer = s.startTimer := rfl
@[simp] theorem request_silenceTimer : (request r s).silenceTimer = s.silenceTimer := rfl
@[simp] theorem request_exchangeTaken : (request r s).exchangeTaken = s.exchangeTaken := rfl
@[simp] theorem request_plcSilent : (request r s).plcSilent = s.plcSilent := rfl
@[simp] theorem request_runRequested : (request r s).runRequested = s.runRequested := rfl
@[simp] theorem request_attention : (request r s).attention = s.attention := rfl
@[simp] theorem request_mask : (request r s).mask = s.mask := rfl

end

/-! ### requestAll -/

section
variable (rs : List Request)

@[simp] theorem requestAll_pending : (requestAll rs s).pending = s.pending := rfl
@[simp] theorem requestAll_now : (requestAll rs s).now = s.now := rfl
@[simp] theorem requestAll_powered : (requestAll rs s).powered = s.powered := rfl
@[simp] theorem requestAll_resetHeld : (requestAll rs s).resetHeld = s.resetHeld := rfl
@[simp] theorem requestAll_mode : (requestAll rs s).mode = s.mode := rfl
@[simp] theorem requestAll_tables : (requestAll rs s).tables = s.tables := rfl
@[simp] theorem requestAll_points : (requestAll rs s).points = s.points := rfl
@[simp] theorem requestAll_forced : (requestAll rs s).forced = s.forced := rfl
@[simp] theorem requestAll_arbiter : (requestAll rs s).arbiter = s.arbiter ++ rs.foldl (fun batch r => joinTogether s.tables r batch) [] := rfl
@[simp] theorem requestAll_trips : (requestAll rs s).trips = s.trips := rfl
@[simp] theorem requestAll_interlocks : (requestAll rs s).interlocks = s.interlocks := rfl
@[simp] theorem requestAll_bypasses : (requestAll rs s).bypasses = s.bypasses := rfl
@[simp] theorem requestAll_ports : (requestAll rs s).ports = s.ports := rfl
@[simp] theorem requestAll_nodes : (requestAll rs s).nodes = s.nodes := rfl
@[simp] theorem requestAll_cycleTimer : (requestAll rs s).cycleTimer = s.cycleTimer := rfl
@[simp] theorem requestAll_slot : (requestAll rs s).slot = s.slot := rfl
@[simp] theorem requestAll_segs : (requestAll rs s).segs = s.segs := rfl
@[simp] theorem requestAll_returns : (requestAll rs s).returns = s.returns := rfl
@[simp] theorem requestAll_tag : (requestAll rs s).tag = s.tag := rfl
@[simp] theorem requestAll_inputs : (requestAll rs s).inputs = s.inputs := rfl
@[simp] theorem requestAll_outputs : (requestAll rs s).outputs = s.outputs := rfl
@[simp] theorem requestAll_lampIndex : (requestAll rs s).lampIndex = s.lampIndex := rfl
@[simp] theorem requestAll_lampTimer : (requestAll rs s).lampTimer = s.lampTimer := rfl
@[simp] theorem requestAll_channels : (requestAll rs s).channels = s.channels := rfl
@[simp] theorem requestAll_service : (requestAll rs s).service = s.service := rfl
@[simp] theorem requestAll_waiting : (requestAll rs s).waiting = s.waiting := rfl
@[simp] theorem requestAll_startTimer : (requestAll rs s).startTimer = s.startTimer := rfl
@[simp] theorem requestAll_silenceTimer : (requestAll rs s).silenceTimer = s.silenceTimer := rfl
@[simp] theorem requestAll_exchangeTaken : (requestAll rs s).exchangeTaken = s.exchangeTaken := rfl
@[simp] theorem requestAll_plcSilent : (requestAll rs s).plcSilent = s.plcSilent := rfl
@[simp] theorem requestAll_runRequested : (requestAll rs s).runRequested = s.runRequested := rfl
@[simp] theorem requestAll_attention : (requestAll rs s).attention = s.attention := rfl
@[simp] theorem requestAll_mask : (requestAll rs s).mask = s.mask := rfl

end

end Sys2Proof.Machine
end

