-- ==== Sys2Proof/Laws/Vectors.lean ====
section
/-! SUPPORT. Laws of the ways the model goes through a vector of records, and of values held for each
port and each segment. -/

namespace Sys2Proof.Machine

/-- Two vectors with equal records are equal. -/
theorem vector_ext {α : Type} {n : Nat} {v w : Vector α n} (h : ∀ i : Fin n, v[i] = w[i]) : v = w := by
  apply Vector.ext
  intro i hi
  exact h ⟨i, hi⟩

@[simp] theorem updAll_getElem {α : Type} {n : Nat} (f : Fin n → α → α) (v : Vector α n) (k : Nat)
    (h : k < n) : (updAll f v)[k] = f ⟨k, h⟩ v[k] := by
  simp [updAll, Vector.getElem_mk]

theorem updAll_get {α : Type} {n : Nat} (f : Fin n → α → α) (v : Vector α n) (i : Fin n) :
    (updAll f v)[i] = f i v[i] := updAll_getElem f v i.val i.isLt

@[simp] theorem updOne_getElem {α : Type} {n : Nat} (v : Vector α n) (i : Fin n) (f : α → α) (k : Nat)
    (h : k < n) : (updOne v i f)[k] = if k = i.val then f v[k] else v[k] := by
  simp only [updOne, Fin.getElem_fin]
  rw [Vector.getElem_set]
  by_cases e : k = i.val
  · subst e; simp
  · rw [if_neg e, if_neg fun x => e x.symm]

theorem updOne_get {α : Type} {n : Nat} (v : Vector α n) (i j : Fin n) (f : α → α) :
    (updOne v i f)[j] = if j = i then f v[j] else v[j] := by
  simp [Fin.ext_iff]

theorem updOne_eq_set {α : Type} {n : Nat} (v : Vector α n) (i : Fin n) (f : α → α) :
    updOne v i f = v.set i (f v[i]) := rfl

/-- Changing the same record twice. -/
@[simp] theorem updOne_updOne {α : Type} {n : Nat} (v : Vector α n) (i : Fin n) (f g : α → α) :
    updOne (updOne v i f) i g = updOne v i (fun a => g (f a)) := by
  apply Vector.ext
  intro k hk
  by_cases h : k = i.val <;> simp [h]

/-- A record put back as it is. -/
theorem set_same {α : Type} {n : Nat} (v : Vector α n) (i : Fin n) : v.set i v[i] = v := by
  simp

/-- A record is listed exactly when it passes the test. -/
@[simp] theorem mem_indicesOf {α : Type} {n : Nat} (test : α → Bool) (v : Vector α n) (i : Fin n) :
    i ∈ indicesOf test v ↔ test v[i] = true := by
  simp only [indicesOf, List.mem_filterMap]
  constructor
  · rintro ⟨⟨j, a⟩, hm, hp⟩
    simp only [Option.ite_none_right_eq_some, Option.some.injEq] at hp
    obtain ⟨ht, rfl⟩ := hp
    obtain ⟨k, hk, e⟩ := List.mem_iff_getElem.mp hm
    simp only [List.getElem_zip, List.getElem_finRange, Prod.mk.injEq] at e
    obtain ⟨e1, e2⟩ := e
    subst e1
    simp only [Vector.getElem_toList] at e2
    subst e2
    simpa using ht
  · intro h
    refine ⟨⟨i, v[i]⟩, ?_, by simpa using h⟩
    apply List.mem_iff_getElem.mpr
    refine ⟨i.val, by simp, ?_⟩
    simp [List.getElem_zip]

/-- The indices are listed in ascending order. -/
theorem indicesOf_ascending {α : Type} {n : Nat} (test : α → Bool) (v : Vector α n) :
    (indicesOf test v).Pairwise (· < ·) := by
  have zipped : ((List.finRange n).zip v.toList).Pairwise (fun a b => a.1 < b.1) := by
    have h := List.pairwise_lt_finRange n
    have e : ((List.finRange n).zip v.toList).map Prod.fst = List.finRange n := by
      rw [List.map_fst_zip]; simp
    rw [← e, List.pairwise_map] at h
    exact h
  unfold indicesOf
  rw [List.pairwise_filterMap]
  refine zipped.imp ?_
  intro a b hab x hx y hy
  simp only [Option.ite_none_right_eq_some, Option.some.injEq] at hx hy
  rw [← hx.2, ← hy.2]
  exact hab

/-! ## Ports and segments -/

@[simp] theorem PerPort.get_upd {α : Type} (x : PerPort α) (p q : Port) (f : α → α) :
    (x.upd p f).get q = if q = p then f (x.get p) else x.get q := by
  cases p <;> cases q <;> rfl

@[simp] theorem PerSeg.get_upd {α : Type} (x : PerSeg α) (g h : Seg) (f : α → α) :
    (x.upd g f).get h = if h = g then f (x.get g) else x.get h := by
  cases g <;> cases h <;> rfl

theorem PerPort.ext_get {α : Type} {x y : PerPort α} (h : ∀ p, x.get p = y.get p) : x = y := by
  cases x; cases y
  have a := h .spreader; have b := h .cab; have c := h .drive
  simp only [PerPort.get] at a b c
  rw [a, b, c]

theorem PerSeg.ext_get {α : Type} {x y : PerSeg α} (h : ∀ g, x.get g = y.get g) : x = y := by
  cases x; cases y
  have a := h .spreader; have b := h .cab
  simp only [PerSeg.get] at a b
  rw [a, b]

@[simp] theorem PerPort.upd_upd {α : Type} (x : PerPort α) (p : Port) (f g : α → α) :
    (x.upd p f).upd p g = x.upd p (fun a => g (f a)) := by
  cases p <;> rfl

@[simp] theorem PerSeg.upd_upd {α : Type} (x : PerSeg α) (p : Seg) (f g : α → α) :
    (x.upd p f).upd p g = x.upd p (fun a => g (f a)) := by
  cases p <;> rfl

@[simp] theorem PerPort.get_drive {α : Type} (x : PerPort α) : x.get .drive = x.drive := rfl
@[simp] theorem segOf_portOf (g : Seg) : segOf (portOf g) = some g := by cases g <;> rfl
@[simp] theorem portOf_ne_drive (g : Seg) : portOf g ≠ .drive := by cases g <;> decide
@[simp] theorem segOf_drive : segOf .drive = none := rfl

/-- Changing a segment's port leaves the drive port. -/
@[simp] theorem PerPort.upd_portOf_drive {α : Type} (x : PerPort α) (g : Seg) (f : α → α) :
    (x.upd (portOf g) f).drive = x.drive := by cases g <;> rfl

end Sys2Proof.Machine
end

