-- ==== Sys2Proof/Laws/Ops.lean ====
section
/-! SUPPORT. What the shared operations do: flags, the part that takes commands, expiries, the arbiter's
list, and answers. -/

namespace Sys2Proof.Machine

/-! ## Flags -/

/-- Setting a flag sets it and leaves every other. -/
@[simp] theorem flag_setFlag (f g : Attention) (s : State) :
    (setFlag f s).flag g = (s.flag g || decide (g = f)) := by
  cases f <;> cases g <;> simp [State.flag, setFlag, Attention.bit]

@[simp] theorem flag_setFlagIf (c : Bool) (f g : Attention) (s : State) :
    (setFlagIf c f s).flag g = (s.flag g || (c && decide (g = f))) := by
  cases c <;> simp [setFlagIf]

@[simp] theorem setFlagIf_false (f : Attention) (s : State) : setFlagIf false f s = s := rfl
@[simp] theorem setFlagIf_true (f : Attention) (s : State) : setFlagIf true f s = setFlag f s := rfl

/-! ## Commands and expiries -/

/-- A part that takes commands carries one out. -/
theorem whenAlive_of {s : State} (h : s.alive = true) (f : State → State) :
    whenAlive s f = .next (f s) := by simp [whenAlive, h]

/-- A part that takes none stands. -/
theorem whenAlive_not {s : State} (h : s.alive = false) (f : State → State) :
    whenAlive s f = .next s := by simp [whenAlive, h]

/-- Whatever a command does, it answers a next state. -/
theorem whenAlive_cases (s : State) (f : State → State) :
    whenAlive s f = .next (f s) ∨ whenAlive s f = .next s := by
  unfold whenAlive
  split
  · exact .inl rfl
  · exact .inr rfl

@[simp] theorem atExpiry_running (d : Nat) (f : Nat → State → State) (s : State) :
    atExpiry (.running d) f s = f d (clockTo d s) := rfl
@[simp] theorem atExpiry_stopped (f : Nat → State → State) (s : State) :
    atExpiry .stopped f s = s := rfl
@[simp] theorem atExpiry_expired (d : Nat) (f : Nat → State → State) (s : State) :
    atExpiry (.expired d) f s = s := rfl

/-- All an expiry can do: nothing, or act at the instant at which its timer runs out. -/
theorem atExpiry_cases (t : Timer) (f : Nat → State → State) (s : State) :
    atExpiry t f s = s ∨ ∃ d, t = .running d ∧ atExpiry t f s = f d (clockTo d s) := by
  cases t with
  | stopped => exact .inl rfl
  | expired d => exact .inl rfl
  | running d => exact .inr ⟨d, rfl, rfl⟩

/-- The grant of the request at the head of the list. -/
theorem grant_head {s : State} {r : Request} {rest : List Request}
    {act : Request → Option (State → State)} {f : State → State}
    (hs : s.arbiter = r :: rest) (hr : act r = some f) :
    grant act s = f { s with arbiter := rest } := by
  simp [grant, hs, hr]

/-- All a grant can do: nothing, or carry out the request at the head of the list. -/
theorem grant_cases (act : Request → Option (State → State)) (s : State) :
    grant act s = s ∨ ∃ r rest f, s.arbiter = r :: rest ∧ act r = some f ∧
      grant act s = f { s with arbiter := rest } := by
  unfold grant
  split
  · exact .inl rfl
  · rename_i r rest h
    cases e : act r with
    | none => exact .inl rfl
    | some f => exact .inr ⟨r, rest, f, h, e, rfl⟩

/-! ## The arbiter's list -/

/-- A request without an instant joins the end of the list. -/
@[simp] theorem joined_untimed {ts : Tables} {r : Request} {list : List Request}
    (h : r.instant? = none) : joined ts r list = list ++ [r] := by simp [joined, h]

/-- Only a request without an instant is one that another follows. -/
theorem follows_untimed {r q : Request} (h : r.follows q = true) : q.instant? = none := by
  cases r <;> cases q <;> simp_all [Request.follows, Request.instant?]

/-- All that joining those that arrived together does: the request is put in at one place. -/
theorem joinTogether_cases (ts : Tables) (r : Request) (list : List Request) :
    ∃ before behind, list = before ++ behind ∧ joinTogether ts r list = before ++ r :: behind ∧
      (∀ q ∈ before, requestBefore ts q r = true) ∧
      ∀ q ∈ behind.head?, requestBefore ts q r = false := by
  induction list with
  | nil => exact ⟨[], [], rfl, rfl, by simp, by simp⟩
  | cons q qs ih =>
    unfold joinTogether
    by_cases h : requestBefore ts q r = true
    · obtain ⟨before, behind, e, j, all, hd⟩ := ih
      refine ⟨q :: before, behind, by simp [e], by simp [h, j], ?_, hd⟩
      intro q' hq'
      rcases List.mem_cons.1 hq' with rfl | hq'
      · exact h
      · exact all q' hq'
    · exact ⟨[], q :: qs, rfl, by simp [h], by simp, by simpa using h⟩

/-- All that joining at an instant does: the request is put in at one place, behind every request that it
follows, at the end if none that waits arrived at that instant, and nothing else moves. -/
theorem joinAt_cases (ts : Tables) (r : Request) (t : Nat) (list : List Request) :
    ∃ before behind, list = before ++ behind ∧ joinAt ts r t list = before ++ r :: behind ∧
      (behind ≠ [] → ∃ q ∈ list, q.instant? = some t) ∧ ∀ q ∈ behind, r.follows q = false := by
  induction list with
  | nil => exact ⟨[], [], rfl, rfl, by simp, by simp⟩
  | cons q qs ih =>
    unfold joinAt
    by_cases h : q.instant? = some t ∧ (!qs.any r.follows) = true
    · obtain ⟨before, behind, e, j, -, -⟩ := joinTogether_cases ts r (q :: qs)
      refine ⟨before, behind, e, by rw [if_pos h, j], fun _ => ⟨q, by simp, h.1⟩, ?_⟩
      intro p hp
      have hm : p ∈ q :: qs := by rw [e]; exact List.mem_append_right _ hp
      rcases List.mem_cons.1 hm with rfl | hm
      · cases hf : r.follows p with
        | false => rfl
        | true => rw [follows_untimed hf] at h; simp at h
      · have all := h.2
        simp only [Bool.not_eq_true', List.any_eq_false] at all
        simpa using all p hm
    · obtain ⟨before, behind, e, j, at_, none_⟩ := ih
      refine ⟨q :: before, behind, by simp [e], by rw [if_neg h, j]; rfl, ?_, none_⟩
      intro hb
      obtain ⟨p, hp, hi⟩ := at_ hb
      exact ⟨p, by simp [hp], hi⟩

/-- A request joins the end of the list when none that waits arrived at its instant. -/
theorem joined_alone {ts : Tables} {r : Request} {list : List Request} {t : Nat}
    (h : r.instant? = some t) (none_ : ∀ q ∈ list, q.instant? ≠ some t) :
    joined ts r list = list ++ [r] := by
  obtain ⟨before, behind, e, j, at_, -⟩ := joinAt_cases ts r t list
  have : behind = [] := Classical.byContradiction fun hb =>
    let ⟨q, hq, hi⟩ := at_ hb
    none_ q hq hi
  subst this
  simp only [joined, h, j]
  simp [e]

/-- All that joining the list does: the request is put in at one place, behind every request that it follows
and, when none that waits arrived with it, at the end, and nothing else moves. -/
theorem joined_cases (ts : Tables) (r : Request) (list : List Request) :
    ∃ before behind, list = before ++ behind ∧ joined ts r list = before ++ r :: behind ∧
      (behind ≠ [] → ∃ t, r.instant? = some t ∧ ∃ q ∈ list, q.instant? = some t) ∧
      ∀ q ∈ behind, r.follows q = false := by
  unfold joined
  cases ht : r.instant? with
  | none => exact ⟨list, [], by simp, by simp, by simp, by simp⟩
  | some t =>
    obtain ⟨before, behind, e, j, at_, none_⟩ := joinAt_cases ts r t list
    exact ⟨before, behind, e, j, fun hb => ⟨t, rfl, at_ hb⟩, none_⟩

/-- Eight content bits, the first the least significant, are a collected octet (R89). -/
theorem collectBits_octet (r : PortRt) (octet : Octet) (h : r.bits = []) :
    (octetBits octet).foldl PortRt.collectBit r = r.collectOctet octet := by
  have whole : ∀ o : Octet, octetOfBits (octetBits o) = o := by decide +kernel
  have spelled : octetBits octet = [octet.getLsbD 0, octet.getLsbD 1, octet.getLsbD 2,
      octet.getLsbD 3, octet.getLsbD 4, octet.getLsbD 5, octet.getLsbD 6, octet.getLsbD 7] := rfl
  have w := whole octet
  rw [spelled] at w ⊢
  simp only [List.foldl_cons, List.foldl_nil]
  simp [PortRt.collectBit, PortRt.collectOctet, h]
  simpa using w

/-! ## Transmissions -/

/-- A reception that is not in progress is abandoned without an outcome. -/
@[simp] theorem abandonReception_idle {p : Port} {s : State} (h : (s.ports.get p).inProgress = false) :
    abandonReception p s = s := by simp [abandonReception, h]

/-- A port that begins a telegram: the receiver closes, and a reception in progress is counted BROKEN
(R83, R85, R95). -/
def PortRt.begins (o : Outgoing) (r : PortRt) : PortRt :=
  { r with
    rx := .seeking, content := [], bits := [], rxOpen := false, sending := some o
    awaited := o.awaits
    counters := if r.inProgress then updOne r.counters RxOutcome.broken.index bump else r.counters }

/-- The beginning of a telegram: the port begins it, a reception that it breaks off sets LINE_FAULT, and
a POLL is counted and puts its exchange in flight. -/
theorem beginSend_eq (p : Port) (o : Outgoing) (s : State) :
    beginSend p o s =
      (match o.owner, segOf p with
        | .poll n, some g => fun t => countNode n .pollsSent (updSeg g SegRt.beginExchange t)
        | _, _ => id)
      { setFlagIf (s.ports.get p).inProgress .lineFault s with
        ports := s.ports.upd p (PortRt.begins o) } := by
  have port : updPort p (fun r => { r with
        rx := .seeking, content := [], bits := [], rxOpen := false, sending := some o
        awaited := o.awaits }) (abandonReception p s) =
      { setFlagIf (s.ports.get p).inProgress .lineFault s with
        ports := s.ports.upd p (PortRt.begins o) } := by
    unfold abandonReception
    cases h : (s.ports.get p).inProgress
    · rw [if_neg Bool.false_ne_true]
      cases p <;> simp only [PerPort.get] at h <;>
        simp only [updPort, PerPort.upd, PortRt.begins, h, setFlagIf_false, if_false, Bool.false_eq_true]
    · rw [if_pos rfl]
      cases p <;> simp only [PerPort.get] at h <;>
        simp only [updPort, PerPort.upd, PortRt.begins, h, setFlagIf_true, if_true, giveOutcome, countRx,
          RxOutcome.isFault] <;> rfl
  unfold beginSend
  rw [port]
  rcases o with ⟨t, w⟩
  cases w <;> cases segOf p <;> rfl

/-- The beginning of a telegram that is not a POLL, with no reception in progress. -/
theorem beginSend_plain {p : Port} {o : Outgoing} {s : State}
    (h : (s.ports.get p).inProgress = false) (ho : ∀ n, o.owner ≠ .poll n) :
    beginSend p o s = updPort p (fun r =>
      { r with
        rx := .seeking, content := [], bits := [], rxOpen := false, sending := some o
        awaited := o.awaits }) s := by
  unfold beginSend
  rw [abandonReception_idle h]
  rcases o with ⟨t, w⟩
  cases w with
  | poll n => exact absurd rfl (ho n)
  | forward _ | safe | answer | abandoned => rfl

/-! ## Octets of fields (R1) -/

/-- A 16-bit field is read from its octets as it was written. -/
theorem word16_octets (w : Word16) : word16 (w.extractLsb' 8 8) (w.extractLsb' 0 8) = w := by
  unfold word16
  apply BitVec.eq_of_getLsbD_eq
  intro i hi
  rw [BitVec.getLsbD_append]
  split
  · rename_i h; simp [h]
  · rename_i h
    simp only [BitVec.getLsbD_extractLsb']
    have : 8 + (i - 8) = i := by omega
    rw [this]
    have : i - 8 < 8 := by omega
    simp [this]

/-- A 32-bit field is read from its octets as it was written. -/
theorem word32_octets (w : Word32) :
    word32 (w.extractLsb' 24 8) (w.extractLsb' 16 8) (w.extractLsb' 8 8) (w.extractLsb' 0 8) = w := by
  unfold word32
  apply BitVec.eq_of_getLsbD_eq
  intro i hi
  simp only [BitVec.getLsbD_append, BitVec.getLsbD_extractLsb']
  split
  · rename_i h; simp [h]
  · split
    · rename_i h1 h2
      have a : 8 + (i - 8) = i := by omega
      simp [a, h2]
    · split
      · rename_i h1 h2 h3
        have a : 16 + (i - 8 - 8) = i := by omega
        simp [a, h3]
      · rename_i h1 h2 h3
        have a : 24 + (i - 8 - 8 - 8) = i := by omega
        have b : i - 8 - 8 - 8 < 8 := by omega
        simp [a, b]

end Sys2Proof.Machine
end

