-- ==== Sys2Proof/Laws/Answers.lean ====
section
/-! SUPPORT. How the Drive Service ends a service when nothing waits and the Drive Port is free (R171):
every answer leaves the state `answered` describes. -/

namespace Sys2Proof.Machine

open Sys2Proof

/-- The hand-over of an answer. -/
theorem tryHandOver_answers {s : State} (t : DriveTelegram) (kind : Kind) (seq : Seq)
    (payload : List Octet) (before : State) (hw : s.waiting = none)
    (hs : s.ports.drive.sending = none) (hp : s.ports.drive.inProgress = false) :
    tryHandOver (setAnswer t (answerTelegram before kind seq payload) false s) =
      answered before kind seq payload s := by
  unfold tryHandOver setAnswer
  dsimp only
  have free : s.ports.drive.sending.isNone = true := by rw [hs]; rfl
  rw [if_pos free]
  rw [beginSend_plain (by exact hp) (by intro n; simp)]
  simp [serveWaiting, hw, answered, answerTelegram, updPort, PerPort.upd, Outgoing.awaits]

/-- The row of a telegram that is not served yet, while none is and the Drive Port listens: it is taken
and served. -/
theorem whenServed_taken {s : State} (h : s.canServe) (t : DriveTelegram) (stage : ServiceStage)
    (serve : State → State) : whenServed t stage serve s = serve (openService t s) := by
  obtain ⟨_, hs, _, _, _, ho⟩ := h
  simp [whenServed, hs, ho]

/-- The row of the telegram that is served. -/
theorem whenServed_served {s : State} {t : DriveTelegram} {stage : ServiceStage}
    (h : s.service = some ⟨t, stage⟩) (serve : State → State) :
    whenServed t stage serve s = serve s := by
  simp [whenServed, h]

/-- While the Drive Port sends, a telegram that is not served yet is lost (R83). -/
theorem whenServed_lost {s : State} {t : DriveTelegram} {stage : ServiceStage}
    (h : s.ports.drive.rxOpen = false) (serve : State → State)
    (other : s.service ≠ some ⟨t, stage⟩) : whenServed t stage serve s = s := by
  unfold whenServed hearDrive
  cases hs : s.service with
  | none => simp [h]
  | some v =>
    have : ¬ (v.telegram = t ∧ v.stage = stage) := by
      rintro ⟨rfl, rfl⟩
      exact other hs
    simp [this, h]

/-- A telegram that is served at once, with nothing served before it: `act` makes `w` and the answer. -/
theorem serveAtOnce_answers {s w : State} {t : DriveTelegram}
    {act : State → Kind × List Octet × State} {kind : Kind} {payload : List Octet}
    (h : s.canServe) (open_ : openService t s = { s with service := some ⟨t, .toServe⟩ })
    (hact : act { s with service := some ⟨t, .toServe⟩ } =
      (kind, payload, { w with service := some ⟨t, .toServe⟩ }))
    (hw : w.waiting = none) (hd : w.ports.drive = s.ports.drive) :
    serveAtOnce t act s = answered s kind t.seq payload w := by
  unfold serveAtOnce
  rw [whenServed_taken h]
  obtain ⟨_, hs, _, hsend, hprog, _⟩ := h
  rw [open_]
  dsimp only
  rw [hact]
  dsimp only
  have e := tryHandOver_answers (s := { w with service := some ⟨t, .toServe⟩ }) t kind t.seq payload
    { s with service := some ⟨t, .toServe⟩ } hw (by exact hd ▸ hsend) (by exact hd ▸ hprog)
  rw [e]
  rfl

/-- A MANAGE command that is served at once. -/
theorem manageAtOnce_answers {s w : State} {seq : Seq} {c : Command} {act : State → Result × State}
    {r : Result} (h : s.canServe) (parsed : parseManage c.payload = (c.code, .ok c))
    (atOnce : c.isUpdate = false)
    (hact : act { s with service := some ⟨manageTelegram seq c, .toServe⟩ } =
      (r, { w with service := some ⟨manageTelegram seq c, .toServe⟩ }))
    (hw : w.waiting = none) (hd : w.ports.drive = s.ports.drive) :
    manageAtOnce seq c act s = managed s seq c.code r.octets w := by
  unfold manageAtOnce
  rw [serveAtOnce_answers (w := w) (kind := .manageAnswer) (payload := c.code :: r.octets) h ?_ ?_ hw
    hd]
  · rfl
  · simp [openService, manageTelegram, parsed, atOnce]
  · dsimp only
    rw [hact]

/-- The answer of a granted update. -/
theorem answerGranted_answers {s : State} {t : DriveTelegram} (kind : Kind) (payload : List Octet)
    (h : s.service = some ⟨t, .requested⟩) (hw : s.waiting = none)
    (hs : s.ports.drive.sending = none) (hp : s.ports.drive.inProgress = false) :
    answerGranted kind payload s = answered s kind t.seq payload s := by
  unfold answerGranted
  rw [h]
  dsimp only
  rw [tryHandOver_answers t kind t.seq payload s hw hs hp]

/-- The grant of a management update: `act` makes `w` and the result. -/
theorem manageGranted_answers {s w : State} {seq : Seq} {c : Command} {act : State → Result × State}
    {r : Result} {rest : List Request} (h : s.atGrantOf (manageTelegram seq c) (.manage c) rest)
    (hact : act { s with arbiter := rest } = (r, w)) (hw : w.waiting = s.waiting)
    (hv : w.service = s.service) (ht : w.tables = s.tables)
    (hd : w.ports.drive = s.ports.drive) :
    manageGranted seq c act s = managed s seq c.code r.octets w := by
  obtain ⟨_, hs, hwait, hsend, hprog, harb⟩ := h
  unfold manageGranted
  rw [whenServed_served hs, grant_head (f := fun s =>
    let (result, s') := act s
    answerGranted .manageAnswer (c.code :: result.octets) s') harb (by simp)]
  dsimp only
  rw [hact]
  dsimp only
  rw [answerGranted_answers .manageAnswer _ (hv.trans hs) (hw.trans hwait) (hd ▸ hsend) (hd ▸ hprog)]
  simp only [managed, answered, ht]
  rfl

end Sys2Proof.Machine
end

