-- ==== Sys2Proof/Laws/Capture.lean ====
section
/-! SUPPORT. The edges of a capture channel (R163, R165 to R169): an edge leaves the inputs as they stand,
and reads of the other inputs only what a QUAD channel reads, so that it may be taken before or after a
change of theirs. -/

namespace Sys2Proof.Machine

/-! ## One input set, and read -/

theorem ChannelRt.input_setInput (r : ChannelRt) (i j : CapInput) (d : Debounced) :
    (r.setInput i d).input j = if j = i then d else r.input j := by
  cases i <;> cases j <;> rfl

theorem ChannelRt.setInput_self (r : ChannelRt) (i : CapInput) : r.setInput i (r.input i) = r := by
  cases i <;> rfl

/-! ## Edges by mode, and an input set -/

theorem countTo_setInput (c : ChannelCfg) (v : Int) (r : ChannelRt) (j : CapInput) (d : Debounced) :
    countTo c v (r.setInput j d) = ((countTo c v r).1.setInput j d, (countTo c v r).2) := by
  unfold countTo
  by_cases h1 : c.limit = 0
  · cases j <;> simp only [ChannelRt.setInput, if_pos h1]
  by_cases h2 : v = c.limit ∧ (!r.reached) = true
  · cases j <;> (simp only [ChannelRt.setInput, if_neg h1, if_pos h2]; exact if_pos h2)
  by_cases h3 : v < c.limit
  · cases j <;> simp only [ChannelRt.setInput, if_neg h1, if_neg h2, if_pos h3]
  · cases j <;> simp only [ChannelRt.setInput, if_neg h1, if_neg h2, if_neg h3]

theorem countEdge_setInput (c : ChannelCfg) (r : ChannelRt) (j : CapInput) (d : Debounced) :
    countEdge c (r.setInput j d) = ((countEdge c r).1.setInput j d, (countEdge c r).2) := by
  have e : (r.setInput j d).count = r.count := by cases j <;> rfl
  unfold countEdge
  rw [e, countTo_setInput]
  dsimp only
  by_cases h : (if c.limit = 0 then countCeiling else (c.limit : Int)) ≤ r.count
  · rw [if_pos h, if_pos h]
  · rw [if_neg h, if_neg h]

theorem periodEdge_setInput (now : Nat) (c : ChannelCfg) (r : ChannelRt) (j : CapInput) (d : Debounced) :
    periodEdge now c (r.setInput j d) = (periodEdge now c r).setInput j d := by
  cases h : r.stage <;> cases j <;> simp only [periodEdge, ChannelRt.setInput, h]

theorem widthEdge_setInput (now : Nat) (c : ChannelCfg) (rising : Bool) (r : ChannelRt) (j : CapInput)
    (d : Debounced) : widthEdge now c rising (r.setInput j d) = (widthEdge now c rising r).setInput j d := by
  cases h : r.stage <;> cases j <;> cases rising <;>
    simp only [widthEdge, ChannelRt.setInput, h, if_true, if_false, Bool.false_eq_true]

theorem quadEdge_setInput (r : ChannelRt) (j : CapInput) (d : Debounced)
    (h : j = .z ∨ d.accepted = (r.input j).accepted) :
    quadEdge (r.setInput j d) = ((quadEdge r).1.setInput j d, (quadEdge r).2) := by
  unfold quadEdge
  have a : (r.setInput j d).a.accepted = r.a.accepted := by
    cases j <;> simp_all [ChannelRt.setInput, ChannelRt.input]
  have b : (r.setInput j d).b.accepted = r.b.accepted := by
    cases j <;> simp_all [ChannelRt.setInput, ChannelRt.input]
  have last : (r.setInput j d).lastPair = r.lastPair := by cases j <;> rfl
  rw [a, b, last]
  dsimp only
  cases quadStep r.lastPair (r.a.accepted, r.b.accepted) <;> cases j <;> rfl

theorem indexEdge_setInput (c : ChannelCfg) (r : ChannelRt) (j : CapInput) (d : Debounced) :
    indexEdge c (r.setInput j d) = ((indexEdge c r).1.setInput j d, (indexEdge c r).2) := by
  have homed : (r.setInput j d).homed = r.homed := by cases j <;> rfl
  have home : ({ r.setInput j d with homed := true } : ChannelRt) =
      ({ r with homed := true } : ChannelRt).setInput j d := by cases j <;> rfl
  unfold indexEdge
  rw [homed]
  cases c.index <;> cases r.homed <;> cases c.mode <;>
    simp only [Bool.not_true, Bool.not_false, if_true, if_false, Bool.false_eq_true, home,
      countTo_setInput] <;>
    cases j <;> rfl

/-- An edge does not read the inputs, but for the levels of A and B on a QUAD channel. -/
theorem channelEdge_setInput (now : Nat) (c : ChannelCfg) (isZero : Bool) (i j : CapInput) (rising : Bool)
    (r : ChannelRt) (d : Debounced)
    (h : c.mode ≠ .quad ∨ i = .z ∨ j = .z ∨ d.accepted = (r.input j).accepted) :
    channelEdge now c isZero i rising (r.setInput j d) =
      ((channelEdge now c isZero i rising r).1.setInput j d,
        (channelEdge now c isZero i rising r).2) := by
  by_cases hz : i = .z
  · subst hz
    by_cases hb : isZero = true ∧ rising = true
    · cases hm : c.mode <;> simp only [channelEdge, hm, if_pos hb, indexEdge_setInput]
    · cases hm : c.mode <;> simp only [channelEdge, hm, if_neg hb]
  · cases rising <;> cases i <;> cases hm : c.mode <;>
      simp only [channelEdge, hm, if_true, if_false, Bool.false_eq_true, countEdge_setInput,
        periodEdge_setInput, widthEdge_setInput] <;>
      first | exact absurd rfl hz | exact quadEdge_setInput r j d (by simpa [hm] using h)

/-- An edge leaves the inputs as they stand. -/
theorem channelEdge_input (now : Nat) (c : ChannelCfg) (isZero : Bool) (i j : CapInput) (rising : Bool)
    (r : ChannelRt) : (channelEdge now c isZero i rising r).1.input j = r.input j := by
  have h := congrArg (fun x => x.1.input j)
    (channelEdge_setInput now c isZero i j rising r (r.input j) (.inr (.inr (.inr rfl))))
  simp only [ChannelRt.setInput_self, ChannelRt.input_setInput, if_true] at h
  exact h

/-! ## Several inputs of one command -/

/-- Inputs that the channel has go through their changes, and then their edges act. -/
theorem inputsChange_eq (k : ChannelNo) (inputs : List (CapInput × (Debounced → Debounced × Bool)))
    (s : State) (h : ∀ e ∈ inputs, hasInput k e.1 = true) :
    inputsChange k inputs s = actEdges k (inputs.foldl changeInput (s.channels[k], [])).2
      (updChannel k (fun _ => (inputs.foldl changeInput (s.channels[k], [])).1) s) := by
  unfold inputsChange
  rw [List.filter_eq_self.2 h]

/-- The edges found join those found before. -/
theorem foldl_changeInput_edges (inputs : List (CapInput × (Debounced → Debounced × Bool)))
    (r : ChannelRt) (edges : List CapInput) :
    inputs.foldl changeInput (r, edges) =
      ((inputs.foldl changeInput (r, [])).1, edges ++ (inputs.foldl changeInput (r, [])).2) := by
  induction inputs generalizing r edges with
  | nil => simp
  | cons e inputs ih =>
    rw [List.foldl_cons, List.foldl_cons]
    simp only [changeInput]
    rw [ih, ih (r.setInput e.1 (e.2 (r.input e.1)).1) (if (e.2 (r.input e.1)).2 = true then _ else _)]
    split <;> simp

/-- An input that is not named stands. -/
theorem foldl_changeInput_input (inputs : List (CapInput × (Debounced → Debounced × Bool)))
    (r : ChannelRt) (edges : List CapInput) (i : CapInput) (h : i ∉ inputs.map Prod.fst) :
    (inputs.foldl changeInput (r, edges)).1.input i = r.input i := by
  induction inputs generalizing r edges with
  | nil => rfl
  | cons e inputs ih =>
    simp only [List.map_cons, List.mem_cons, not_or] at h
    rw [List.foldl_cons]
    simp only [changeInput]
    rw [ih _ _ h.2, ChannelRt.input_setInput, if_neg h.1]

/-- A change of a line level accepts the level only without debounce, and only a new one. -/
theorem lineChange_accepted (now debounce : Nat) (level : Bool) (d : Debounced) :
    (lineChange now debounce level d).1.accepted = d.accepted ∨
      (debounce = 0 ∧ level ≠ d.line ∧ level ≠ d.accepted) := by
  unfold lineChange
  (repeat' split) <;> simp_all

end Sys2Proof.Machine
end

