-- ==== Sys2Proof/Laws/Ends.lean ====
section
/-! SUPPORT. How exchanges and forwards end (R107, R125 to R127, R142 to R145): what an outcome can change,
and that the model's two ends are those of Safety. -/

namespace Sys2Proof.Machine
/-- R181's test and the requests made with it do not read the segments or the ports. -/
theorem requestAndTest_apart (rs : List Request) (u : State) (segs : PerSeg SegRt)
    (ports : PerPort PortRt) : requestAndTest rs { u with segs := segs, ports := ports } =
      { requestAndTest rs u with segs := segs, ports := ports } := by
  unfold requestAndTest
  by_cases h : u.readyToRun = true ∧ (!u.runRequested) = true
  · rw [if_pos h, if_pos (show State.readyToRun { u with segs := segs, ports := ports } = true ∧ _ from h)]
    rfl
  · rw [if_neg h, if_neg (show ¬ (State.readyToRun { u with segs := segs, ports := ports } = true ∧ _) from h)]
    rfl

/-- An outcome does not read the segments or the ports. -/
theorem nodeOutcome_apart (n : NodeNo) (o : ExchangeOutcome) (instant : Option Nat) (s : State)
    (segs : PerSeg SegRt) (ports : PerPort PortRt) :
    nodeOutcome n o instant { s with segs := segs, ports := ports } =
      { nodeOutcome n o instant s with segs := segs, ports := ports } := by
  have good (p : List Octet) (u : State) : goodOutcome n p { u with segs := segs, ports := ports } =
      { goodOutcome n p u with segs := segs, ports := ports } := by
    have online (rise : Bool) (u : State) : toOnline n p rise { u with segs := segs, ports := ports } =
        { toOnline n p rise u with segs := segs, ports := ports } := by
      exact requestAndTest_apart [.replyIntake n p rise]
        (updNode n (fun r => { r with link := .online, misses := 0, goods := 0 }) u) segs ports
    unfold goodOutcome
    dsimp only
    split
    · rfl
    · exact online true u
    · exact online false u
    · exact online false u
    · split
      · exact online true u
      · rfl
    · split
      · exact online true u
      · rfl
  have miss (u : State) : missOutcome n instant { u with segs := segs, ports := ports } =
      { missOutcome n instant u with segs := segs, ports := ports } := by
    unfold missOutcome
    dsimp only
    split
    all_goals first | rfl | (split <;> rfl)
  unfold nodeOutcome
  have flags (u : State) : setFlagIf (decide (o = .identity)) .nodeIdentity
      (countNode n o.counter { u with segs := segs, ports := ports }) =
      { setFlagIf (decide (o = .identity)) .nodeIdentity (countNode n o.counter u) with
        segs := segs, ports := ports } := by
    by_cases h : o = .identity
    · subst h; rfl
    · simp only [h, decide_false, setFlagIf_false]; rfl
  rw [flags]
  dsimp only
  split
  · rfl
  · split
    · exact good _ _
    all_goals exact miss _

/-- What an outcome leaves: the clock and the tables among the rest. -/
theorem nodeOutcome_frame (n : NodeNo) (o : ExchangeOutcome) (instant : Option Nat) (s : State) :
    ∃ arbiter nodes attention startTimer runRequested, nodeOutcome n o instant s = { s with
      arbiter := arbiter, nodes := nodes, attention := attention, startTimer := startTimer
      runRequested := runRequested } := by
  have test (rs : List Request) (u : State) : ∃ a t r, requestAndTest rs u =
      { u with arbiter := a, startTimer := t, runRequested := r } := by
    unfold requestAndTest
    split <;> exact ⟨_, _, _, rfl⟩
  have good (p : List Octet) (u : State) : ∃ a nodes t r, goodOutcome n p u =
      { u with arbiter := a, nodes := nodes, startTimer := t, runRequested := r } := by
    have online (rise : Bool) : ∃ a nodes t r, toOnline n p rise u =
        { u with arbiter := a, nodes := nodes, startTimer := t, runRequested := r } := by
      unfold toOnline
      obtain ⟨a, t, r, e⟩ := test [.replyIntake n p rise]
        (updNode n (fun r => { r with link := .online, misses := 0, goods := 0 }) u)
      exact ⟨a, _, t, r, e⟩
    unfold goodOutcome
    dsimp only
    split
    · exact ⟨_, _, _, _, rfl⟩
    · exact online true
    · exact online false
    · exact online false
    · split
      · exact online true
      · exact ⟨_, _, _, _, rfl⟩
    · split
      · exact online true
      · exact ⟨_, _, _, _, rfl⟩
  have miss (u : State) : ∃ a nodes, missOutcome n instant u =
      { u with arbiter := a, nodes := nodes } := by
    unfold missOutcome
    dsimp only
    split
    all_goals first | exact ⟨_, _, rfl⟩ | (split <;> exact ⟨_, _, rfl⟩)
  unfold nodeOutcome
  have flags : ∃ nodes attention, setFlagIf (decide (o = .identity)) .nodeIdentity
      (countNode n o.counter s) = { s with nodes := nodes, attention := attention } := by
    cases decide (o = .identity) <;> exact ⟨_, _, rfl⟩
  obtain ⟨nodes, attention, e⟩ := flags
  rw [e]
  dsimp only
  split
  · exact ⟨_, _, _, _, _, rfl⟩
  · split
    · obtain ⟨_, _, _, _, e⟩ := good _ { s with nodes := nodes, attention := attention }
      exact ⟨_, _, _, _, _, e⟩
    all_goals
      obtain ⟨_, _, e⟩ := miss { s with nodes := nodes, attention := attention }
      exact ⟨_, _, _, _, _, e⟩

@[simp] theorem nodeOutcome_now (n : NodeNo) (o : ExchangeOutcome) (instant : Option Nat) (s : State) :
    (nodeOutcome n o instant s).now = s.now := by
  obtain ⟨_, _, _, _, _, e⟩ := nodeOutcome_frame n o instant s
  rw [e]

@[simp] theorem nodeOutcome_tables (n : NodeNo) (o : ExchangeOutcome) (instant : Option Nat) (s : State) :
    (nodeOutcome n o instant s).tables = s.tables := by
  obtain ⟨_, _, _, _, _, e⟩ := nodeOutcome_frame n o instant s
  rw [e]

/-- What an outcome does not touch. -/
theorem nodeOutcome_keeps (n : NodeNo) (o : ExchangeOutcome) (instant : Option Nat) (s : State) :
    (nodeOutcome n o instant s).segs = s.segs ∧ (nodeOutcome n o instant s).ports = s.ports := by
  have h := nodeOutcome_apart n o instant s s.segs s.ports
  exact ⟨by rw [h], by rw [h]⟩

/-- The end of an exchange, in the words of the manual. -/
theorem endExchange_ended (g : Seg) (n : NodeNo) (o : ExchangeOutcome) (instant : Option Nat)
    (s : State) : endExchange g n o instant s = exchangeEnded g n o instant s := by
  obtain ⟨hs, hp⟩ := nodeOutcome_keeps n o instant s
  unfold endExchange exchangeEnded enterTurnaround clearAwaited updSeg updPort
  dsimp only
  rw [nodeOutcome_apart]
  dsimp only
  rw [hs, hp]
  unfold turnaroundTime startTimer
  dsimp only
  rw [nodeOutcome_now, nodeOutcome_tables]
  cases g <;> rfl

/-- The end of a forward, in the words of the manual. -/
theorem endForward_ended (g : Seg) (f : Forward) (o : ReturnOutcome) (s : State) :
    endForward g f o s = forwardEnded g f o s := by
  unfold endForward forwardEnded addReturn
  by_cases h : s.returns.length < 4
  · have h' : ¬ 4 ≤ s.returns.length := by omega
    cases g <;> simp [enterTurnaround, clearAwaited, updSeg, updPort, PerSeg.upd, PerPort.upd, portOf,
      Config.maxReturns, h, h', turnaroundTime, startTimer]
  · have h' : 4 ≤ s.returns.length := by omega
    cases g <;> simp [enterTurnaround, clearAwaited, updSeg, updPort, PerSeg.upd, PerPort.upd, portOf,
      Config.maxReturns, h, h', turnaroundTime, startTimer, setFlag]

end Sys2Proof.Machine
end

