-- ==== Sys2Proof/Laws/Modes.lean ====
section
/-! SUPPORT. What the changes of mode do (R11, R115, R134, R147): the nodes that the entry to RUN loses, the
forwards that are dropped, and SAFE on its way to both segments. -/

namespace Sys2Proof.Machine

/-! ## Nodes lost at the entry to RUN (R115) -/

/-- The NODE points of a node age; every other point stands (R11). -/
theorem ageNode_point (n : NodeNo) (s : State) (p : PointNo) :
    (ageNode n s).points[p] =
      if ofNode n s.tables.points[p] then
        { applyStale s.tables.points[p] s.points[p] with hold := .stopped }
      else s.points[p] := by
  simp only [ageNode, staleWhere, updAll_get]
  split <;> rfl

/-- The nodes of a list that are SILENT are LOST, their NODE points age, and NODE_LOST is set if there is
one. -/
theorem foldl_loseSilent (s : State) (ns : List NodeNo) (hn : ns.Nodup) :
    ∃ nodes points attention,
      ns.foldl (fun s n => loseSilent n s) s =
        { s with nodes := nodes, points := points, attention := attention } ∧
      (∀ n : NodeNo, nodes[n] =
        if n ∈ ns ∧ s.nodes[n].link = .silent then
          { s.nodes[n] with link := .lost, misses := 0, goods := 0 }
        else s.nodes[n]) ∧
      (∀ p : PointNo, points[p] =
        if s.tables.source p = .node ∧
            ns.any (fun n => decide (s.nodes[n].link = .silent) &&
              s.tables.points[p].refA.val == n.val) then
          { applyStale s.tables.points[p] s.points[p] with hold := .stopped }
        else s.points[p]) ∧
      ∀ f : Attention, State.flag { s with attention := attention } f = true ↔
        s.flag f = true ∨ (f = .nodeLost ∧ ∃ n ∈ ns, s.nodes[n].link = .silent) := by
  induction ns generalizing s with
  | nil => exact ⟨s.nodes, s.points, s.attention, rfl, by simp, by simp, by simp [State.flag]⟩
  | cons m ns ih =>
    obtain ⟨hm, hns⟩ := List.nodup_cons.1 hn
    by_cases hs : s.nodes[m].link = .silent
    · obtain ⟨nodes, points, attention, e, hnodes, hpoints, hf⟩ := ih (loseSilent m s) hns
      have lost : loseSilent m s = { s with
          nodes := updOne s.nodes m fun r => { r with link := .lost, misses := 0, goods := 0 }
          points := (ageNode m s).points
          attention := s.attention ||| (1 <<< Attention.nodeLost.bit) } := by
        simp only [loseSilent, hs, if_true]
        rfl
      have node : ∀ n : NodeNo, (loseSilent m s).nodes[n] =
          if n = m then { s.nodes[n] with link := .lost, misses := 0, goods := 0 }
          else s.nodes[n] := by
        intro n
        rw [lost]
        show (updOne s.nodes m _)[n] = _
        rw [updOne_get]
      have other : ∀ n ∈ ns, (loseSilent m s).nodes[n] = s.nodes[n] := by
        intro n h
        rw [node, if_neg]
        rintro rfl
        exact hm h
      have tables : (loseSilent m s).tables = s.tables := by rw [lost]
      refine ⟨nodes, points, attention, ?_, ?_, ?_, ?_⟩
      · rw [List.foldl_cons, e, lost]
      · intro n
        rw [hnodes, node]
        by_cases h : n = m
        · subst h
          simp [hm, hs, -Fin.getElem_fin]
        · simp [h, -Fin.getElem_fin]
      · intro p
        have aged : (loseSilent m s).points[p] = if ofNode m s.tables.points[p] then
            { applyStale s.tables.points[p] s.points[p] with hold := .stopped }
            else s.points[p] := by
          rw [lost]
          exact ageNode_point m s p
        have silent : ns.any (fun n => decide ((loseSilent m s).nodes[n].link = .silent) &&
              (loseSilent m s).tables.points[p].refA.val == n.val) =
            ns.any (fun n => decide (s.nodes[n].link = .silent) &&
              s.tables.points[p].refA.val == n.val) := by
          rw [tables]
          clear ih e hnodes hpoints
          rw [Bool.eq_iff_iff]
          simp only [List.any_eq_true]
          constructor <;>
            (rintro ⟨n, h1, h2⟩
             refine ⟨n, h1, ?_⟩
             first
             | (rw [other n h1] at h2; exact h2)
             | (rw [other n h1]; exact h2))
        rw [hpoints, silent, aged, tables]
        simp only [ofNode, List.any_cons, hs, Tables.source]
        by_cases h1 : s.tables.points[p].source = .node
        · by_cases h2 : s.tables.points[p].refA.val = m.val
          · have : ns.any (fun n => decide (s.nodes[n].link = .silent) &&
                s.tables.points[p].refA.val == n.val) = false := by
              rw [List.any_eq_false]
              intro n hn'
              simp
              intro _ h
              exact hm (by have : m = n := Fin.ext (h2.symm.trans h); rw [this]; exact hn')
            rw [this]
            simp
          · have h3 : (s.tables.points[p].refA.val == m.val) = false := by simpa using h2
            simp only [h1, h3, decide_true, Bool.and_false, Bool.false_eq_true, if_false,
              Bool.false_or, true_and]
        · simp [h1, -Fin.getElem_fin]
      · intro f
        rw [show State.flag { s with attention := attention } f =
          State.flag { loseSilent m s with attention := attention } f from rfl, hf]
        have set_ : (loseSilent m s).flag f = (setFlag .nodeLost s).flag f := by
          rw [lost]
          rfl
        have one : ∃ n ∈ m :: ns, s.nodes[n].link = .silent := ⟨m, List.mem_cons_self, hs⟩
        rw [set_, flag_setFlag]
        simp only [Bool.or_eq_true, decide_eq_true_eq]
        constructor
        · rintro ((h | h) | h)
          · exact .inl h
          · exact .inr ⟨h, one⟩
          · exact .inr ⟨h.1, one⟩
        · rintro (h | h)
          · exact .inl (.inl h)
          · exact .inl (.inr h.1)
    · obtain ⟨nodes, points, attention, e, hnodes, hpoints, hf⟩ := ih s hns
      have stands : loseSilent m s = s := by simp only [loseSilent, hs, if_false]
      refine ⟨nodes, points, attention, ?_, ?_, ?_, ?_⟩
      · rw [List.foldl_cons, stands, e]
      · intro n
        rw [hnodes]
        by_cases h : n = m
        · subst h
          simp [hs, -Fin.getElem_fin]
        · simp [h, -Fin.getElem_fin]
      · intro p
        rw [hpoints, List.any_cons, decide_eq_false hs, Bool.false_and, Bool.false_or]
      · intro f
        rw [hf]
        have : (∃ n ∈ m :: ns, s.nodes[n].link = .silent) ↔ ∃ n ∈ ns, s.nodes[n].link = .silent := by
          constructor
          · rintro ⟨n, h, k⟩
            rcases List.mem_cons.1 h with rfl | h
            · exact absurd k hs
            · exact ⟨n, h, k⟩
          · rintro ⟨n, h, k⟩
            exact ⟨n, List.mem_cons_of_mem _ h, k⟩
        rw [this]

/-! ## Forwards dropped, and SAFE sent (R134, R147) -/

/-- Dropping the forwards touches the return queue and the flags. -/
theorem dropForwards_image (s : State) : ∃ returns attention,
    dropForwards s = { s with returns := returns, attention := attention } := by
  unfold dropForwards
  generalize s.segs.spreader.unended ++ s.segs.cab.unended = fs
  induction fs generalizing s with
  | nil => exact ⟨s.returns, s.attention, rfl⟩
  | cons f fs ih =>
    have one : ∃ returns attention, addReturn ⟨f.tag, .dropped⟩ s =
        { s with returns := returns, attention := attention } := by
      unfold addReturn
      split
      · exact ⟨_, s.attention, rfl⟩
      · exact ⟨_, _, rfl⟩
    obtain ⟨r, a, e⟩ := one
    obtain ⟨r', a', e'⟩ := ih { s with returns := r, attention := a }
    exact ⟨r', a', by rw [List.foldl_cons, e, e']⟩

/-- SAFE goes to a segment's transmitter if it is free, and waits otherwise. -/
theorem giveToPort_safe (g : Seg) (s : State) :
    giveToPort g safeTelegram s = if (s.ports.get (portOf g)).sending.isNone then
      { setFlagIf (s.ports.get (portOf g)).inProgress .lineFault s with
        ports := s.ports.upd (portOf g) (PortRt.begins safeTelegram) }
    else { s with segs := s.segs.upd g fun r => { r with outbox := r.outbox ++ [safeTelegram] } } := by
  unfold giveToPort
  rw [beginSend_eq]
  rfl

/-- What SAFE to one segment touches: its port, or what waits for it, and LINE_FAULT. -/
theorem giveToPort_safe_image (g : Seg) (s : State) :
    let t := giveToPort g safeTelegram s
    let free := (s.ports.get (portOf g)).sending.isNone
    t = { s with ports := t.ports, segs := t.segs, attention := t.attention } ∧
    t.ports.drive = s.ports.drive ∧
    (∀ f, t.flag f = (s.flag f || ((free && (s.ports.get (portOf g)).inProgress) &&
      decide (f = .lineFault)))) ∧
    ∀ h, t.ports.get (portOf h) = (if h = g ∧ free = true
        then (s.ports.get (portOf h)).begins safeTelegram else s.ports.get (portOf h)) ∧
      t.segs.get h = if h = g ∧ free = false
        then { s.segs.get h with outbox := (s.segs.get h).outbox ++ [safeTelegram] }
        else s.segs.get h := by
  intro t free
  have e : t = _ := giveToPort_safe g s
  cases h : free
  · have hf : (s.ports.get (portOf g)).sending.isNone = false := h
    rw [hf, if_neg Bool.false_ne_true] at e
    rw [e]
    refine ⟨rfl, rfl, fun f => by simp [State.flag], ?_⟩
    rintro (_ | _) <;> cases g <;> simp [PerSeg.get, PerSeg.upd]
  · have hf : (s.ports.get (portOf g)).sending.isNone = true := h
    rw [hf, if_pos rfl] at e
    rw [e]
    refine ⟨by cases (s.ports.get (portOf g)).inProgress <;> rfl, ?_, ?_, ?_⟩
    · simp
    · intro f
      have := flag_setFlagIf (s.ports.get (portOf g)).inProgress .lineFault f s
      simpa [State.flag] using this
    · rintro (_ | _) <;> cases g <;> simp [PerPort.get, PerPort.upd, portOf]

/-- SAFE goes to both segments: it touches their ports, what waits for them, and LINE_FAULT, by a
reception that it breaks off. -/
theorem sendSafe_both (s : State) :
    sendSafe s = { s with
      ports := (sendSafe s).ports, segs := (sendSafe s).segs, attention := (sendSafe s).attention } ∧
    (sendSafe s).ports.drive = s.ports.drive ∧
    (∀ f, (sendSafe s).flag f = true ↔ s.flag f = true ∨ (f = .lineFault ∧
      ∃ g, (s.ports.get (portOf g)).sending = none ∧ (s.ports.get (portOf g)).inProgress = true)) ∧
    ∀ g, let r := s.ports.get (portOf g)
      (sendSafe s).ports.get (portOf g) = (if r.sending.isNone then r.begins safeTelegram else r) ∧
      (sendSafe s).segs.get g = if r.sending.isNone then s.segs.get g
        else { s.segs.get g with outbox := (s.segs.get g).outbox ++ [safeTelegram] } := by
  have first := giveToPort_safe_image .spreader s
  have second := giveToPort_safe_image .cab (giveToPort .spreader safeTelegram s)
  dsimp only at first second
  obtain ⟨i1, d1, f1, g1⟩ := first
  obtain ⟨i2, d2, f2, g2⟩ := second
  have cab : (giveToPort .spreader safeTelegram s).ports.get (portOf .cab) =
      s.ports.get (portOf .cab) := by
    rw [(g1 .cab).1, if_neg (by rintro ⟨h, _⟩; cases h)]
  rw [cab] at f2 g2
  refine ⟨?_, d2.trans d1, ?_, ?_⟩
  · unfold sendSafe
    rw [i2, i1]
  · intro f
    have two : (∃ g, (s.ports.get (portOf g)).sending = none ∧
        (s.ports.get (portOf g)).inProgress = true) ↔
        ((s.ports.get (portOf .spreader)).sending = none ∧
          (s.ports.get (portOf .spreader)).inProgress = true) ∨
        ((s.ports.get (portOf .cab)).sending = none ∧
          (s.ports.get (portOf .cab)).inProgress = true) := by
      constructor
      · rintro ⟨_ | _, h⟩
        · exact .inl h
        · exact .inr h
      · rintro (h | h)
        · exact ⟨_, h⟩
        · exact ⟨_, h⟩
    unfold sendSafe
    rw [f2, f1, two]
    simp only [Bool.or_eq_true, Bool.and_eq_true, decide_eq_true_eq, Option.isNone_iff_eq_none]
    constructor
    · rintro ((h | h) | h)
      · exact .inl h
      · exact .inr ⟨h.2, .inl h.1⟩
      · exact .inr ⟨h.2, .inr h.1⟩
    · rintro (h | ⟨h, k | k⟩)
      · exact .inl (.inl h)
      · exact .inl (.inr ⟨k, h⟩)
      · exact .inr ⟨k, h⟩
  · unfold sendSafe
    rintro (_ | _)
    · have ports := (g2 .spreader).1
      have segs := (g2 .spreader).2
      rw [if_neg (fun h => nomatch h.1)] at ports segs
      dsimp only
      rw [ports, segs, (g1 .spreader).1, (g1 .spreader).2]
      cases (s.ports.get (portOf .spreader)).sending.isNone <;> simp
    · have segs := (g1 .cab).2
      rw [if_neg (fun h => nomatch h.1)] at segs
      dsimp only
      rw [(g2 .cab).1, (g2 .cab).2, cab, segs]
      cases (s.ports.get (portOf .cab)).sending.isNone <;> simp

end Sys2Proof.Machine
end

