-- ==== Sys2Proof/Laws/Updates.lean ====
section
/-! SUPPORT. What steps 2 to 4 of an update can do (R17): only what `Updated` allows. Callers cite
`settle_updated` and unfold none of the steps. -/

namespace Sys2Proof.Machine

open Sys2Proof

/-- A change of the image alone, however it is written. -/
theorem imageChanged_frame {w t : State}
    (h : ∃ points trips interlocks outputs attention, t = { w with
      points := points, trips := trips, interlocks := interlocks, outputs := outputs
      attention := attention }) :
    t = { w with
      points := t.points, trips := t.trips, interlocks := t.interlocks, outputs := t.outputs
      attention := t.attention } := by
  obtain ⟨_, _, _, _, _, rfl⟩ := h
  rfl

/-- Nothing changes. -/
theorem imageChanged_refl (w : State) (written : PointNo → Bool) : ImageChanged w w written where
  frame := rfl
  flags _ _ := rfl
  points p _ := by
    cases w.tables.source p <;> simp

/-- One change after another. -/
theorem imageChanged_trans {w t u : State} {written : PointNo → Bool} (h : ImageChanged w t written)
    (k : ImageChanged t u written) : ImageChanged w u written := by
  have ht := h.frame
  have tables : t.tables = w.tables := by rw [ht]
  have forced : t.forced = w.forced := by rw [ht]
  refine ⟨?_, ?_, ?_⟩
  · apply imageChanged_frame
    have hu := k.frame
    rw [ht] at hu
    exact ⟨_, _, _, _, _, hu⟩
  · intro f hf
    rw [k.flags f hf, h.flags f hf]
  · intro p hp
    have a := h.points p hp
    have b := k.points p hp
    rw [tables] at b
    have isForced : t.isForced p = w.isForced p := by simp only [State.isForced, forced]
    rw [isForced] at b
    revert a b
    cases w.tables.source p <;> simp only <;> intro a b
    case derived =>
      by_cases f : w.isForced p = true
      · simp only [f, if_true] at a b ⊢
        rw [b, a]
      · simp only [f, Bool.false_eq_true, if_false] at a b ⊢
        rw [b, a]
    case feed => rw [b, a]
    all_goals rw [b, a]

/-- A fold of changes. -/
theorem imageChanged_foldl {ι : Type} {written : PointNo → Bool} (f : State → ι → State) (w : State)
    (h : ∀ t i, ImageChanged w t written → ImageChanged t (f t i) written) (is : List ι) :
    ImageChanged w (is.foldl f w) written := by
  suffices ∀ t, ImageChanged w t written → ImageChanged w (is.foldl f t) written from
    this w (imageChanged_refl w written)
  induction is with
  | nil => intro t ht; exact ht
  | cons i is ih => intro t ht; exact ih (f t i) (imageChanged_trans ht (h t i ht))

/-- What one update of a point's value and quality may change. -/
theorem imageChanged_runDerived (e : DerivedNo) (s : State) (written : PointNo → Bool)
    (hb : s.tables.derived[e].kind ≠ .unused →
      s.tables.source s.tables.derived[e].result = .derived) :
    ImageChanged s (runDerived e s) written := by
  unfold runDerived
  rcases hc : computeDerived s e with ⟨result, state⟩
  simp only []
  cases result with
  | none =>
    exact { frame := rfl, flags := fun _ _ => rfl, points := (imageChanged_refl s written).points }
  | some vq =>
    obtain ⟨v, q⟩ := vq
    have used : s.tables.derived[e].kind ≠ .unused := by
      intro hk
      unfold computeDerived at hc
      dsimp only at hc
      rw [hk] at hc
      exact absurd (congrArg Prod.fst hc) (by simp)
    have src := hb used
    simp only []
    by_cases hf : s.isForced s.tables.derived[e].result = true
    · have : State.isForced { s with trips := s.trips.set e state } s.tables.derived[e].result =
        true := hf
      rw [if_pos this]
      exact { frame := rfl, flags := fun _ _ => rfl, points := (imageChanged_refl s written).points }
    · have : ¬ State.isForced { s with trips := s.trips.set e state } s.tables.derived[e].result =
        true := hf
      rw [if_neg this]
      refine { frame := rfl, flags := fun _ _ => rfl, points := ?_ }
      intro p _
      by_cases hp : p = s.tables.derived[e].result
      · subst hp
        rw [src]
        simp only [hf, Bool.false_eq_true, if_false]
        simp [updPoint]
      · have : (updPoint s.tables.derived[e].result (fun rt => { rt with value := v, quality := q })
            { s with trips := s.trips.set e state }).points[p] = s.points[p] :=
          (updOne_get _ _ _ _).trans (if_neg hp)
        rw [this]
        cases s.tables.source p <;> simp

/-- Step 2 (R47). -/
theorem imageChanged_derivedStep (before : State) (every : Bool) (w : State) (written : PointNo → Bool)
    (hb : w.tables.resultsBound) : ImageChanged w (derivedStep before every w) written := by
  unfold derivedStep
  apply imageChanged_foldl
  intro t e ht
  have tables : t.tables = w.tables := by rw [ht.frame]
  dsimp only
  split
  · exact imageChanged_runDerived e t written (by rw [tables]; exact hb e)
  · exact imageChanged_refl t written

/-- Step 3 (R70, R71). -/
theorem imageChanged_interlockStep (before : State) (every : Bool) (also : List InterlockNo) (w : State)
    (written : PointNo → Bool) : ImageChanged w (interlockStep before every also w) written where
  frame := rfl
  flags _ _ := rfl
  points := (imageChanged_refl w written).points

/-- A hand-over to a local output (R64). -/
theorem imageChanged_handOver (o : OutputNo) (v : Word32) (w : State) (written : PointNo → Bool) :
    ImageChanged w (handOver o v w) written := by
  unfold handOver
  split
  · exact imageChanged_refl w written
  · rcases handed w w.tables.outputs[o] v w.outputs[o] with ⟨rt, ignored⟩
    dsimp only
    exact
      { frame := by cases ignored <;> rfl
        flags := fun g hg => by rw [flag_setFlagIf]; simp [hg, State.flag]
        points := by cases ignored <;> exact (imageChanged_refl w written).points }

/-- Step 4 (R62, R64). -/
theorem imageChanged_outStep (before : State) (every outAll : Bool) (w : State)
    (written : PointNo → Bool) : ImageChanged w (outStep before every outAll w) written := by
  unfold outStep
  dsimp only
  refine imageChanged_trans (t := { w with
      points := updAll (fun p rt => outAfter before w every outAll w.tables.points[p] rt) w.points })
    { frame := rfl, flags := fun _ _ => rfl, points := ?_ } ?_
  · intro p _
    have e : (updAll (fun p rt => outAfter before w every outAll w.tables.points[p] rt)
        w.points)[p] = outAfter before w every outAll w.tables.points[p] w.points[p] :=
      updAll_get _ _ _
    rw [e]
    unfold outAfter Tables.source
    cases hs : w.tables.points[p].source
    case feed => dsimp only; simp only [if_true]; split <;> rfl
    all_goals simp
  · apply imageChanged_foldl
    intro t p _
    split
    · exact imageChanged_refl t written
    · split
      · exact imageChanged_handOver _ _ t written
      · exact imageChanged_refl t written

/-- Steps 2 to 4 of an update change only the image. -/
theorem settle_imageChanged (before : State) (also : List InterlockNo) (w : State)
    (written : PointNo → Bool) (hb : w.tables.resultsBound) :
    ImageChanged w (settle before also w) written := by
  unfold settle
  exact imageChanged_trans (imageChanged_derivedStep before false w written hb)
    (imageChanged_trans (imageChanged_interlockStep before false also _ written)
      (imageChanged_outStep before false _ _ written))

/-- A point that is neither DERIVED nor an OUT point stands where the image changes without writing
it. -/
theorem imageChanged_plain {w t : State} {written : PointNo → Bool} (h : ImageChanged w t written)
    {p : PointNo} (hw : written p = false) (hd : w.tables.source p ≠ .derived)
    (hf : w.tables.source p ≠ .feed) : t.points[p] = w.points[p] := by
  have e := h.points p hw
  rw [e]
  revert hd hf
  cases w.tables.source p <;> simp

/-- A point that is neither DERIVED nor an OUT point stands through steps 2 to 4 as the write step left
it. -/
theorem settle_plain (before : State) (also : List InterlockNo) (w : State) (p : PointNo)
    (hb : w.tables.resultsBound) (hd : w.tables.source p ≠ .derived)
    (hf : w.tables.source p ≠ .feed) : (settle before also w).points[p] = w.points[p] :=
  imageChanged_plain (settle_imageChanged before also w (fun _ => false) hb) rfl hd hf

/-! ## What each step touches -/

/-- A hand-over touches local outputs and the flags. -/
theorem handOver_image (o : OutputNo) (v : Word32) (u : State) :
    ∃ outputs attention, handOver o v u = { u with outputs := outputs, attention := attention } := by
  unfold handOver
  split
  · exact ⟨u.outputs, u.attention, rfl⟩
  · rcases handed u u.tables.outputs[o] v u.outputs[o] with ⟨rt, ignored⟩
    cases ignored <;> exact ⟨_, _, rfl⟩

/-- Step 2 touches points and trip states. -/
theorem derivedStep_image (before : State) (every : Bool) (w : State) :
    ∃ points trips, derivedStep before every w = { w with points := points, trips := trips } := by
  unfold derivedStep
  suffices ∀ (es : List DerivedNo) (u : State),
      (∃ points trips, u = { w with points := points, trips := trips }) →
      ∃ points trips, es.foldl (fun s e =>
        let d := s.tables.derived[e]
        if d.kind ≠ .unused ∧ (d.used.any fun m => changed before s every m.point) then runDerived e s
        else s) u = { w with points := points, trips := trips } from
    this _ w ⟨w.points, w.trips, rfl⟩
  intro es
  induction es with
  | nil => intro u h; exact h
  | cons e es ih =>
    intro u h
    refine ih _ ?_
    dsimp only
    split
    · obtain ⟨points, trips, rfl⟩ := h
      unfold runDerived
      rcases computeDerived _ e with ⟨result, state⟩
      cases result with
      | none => exact ⟨_, _, rfl⟩
      | some vq =>
        dsimp only
        split <;> exact ⟨_, _, rfl⟩
    · exact h

/-- A fold of hand-overs touches what a hand-over touches. -/
theorem foldl_image {ι : Type} (f : State → ι → State)
    (h : ∀ u i, ∃ outputs attention, f u i = { u with outputs := outputs, attention := attention })
    (is : List ι) (u : State) :
    ∃ outputs attention, is.foldl f u = { u with outputs := outputs, attention := attention } := by
  induction is generalizing u with
  | nil => exact ⟨u.outputs, u.attention, rfl⟩
  | cons i is ih =>
    obtain ⟨o, a, e⟩ := h u i
    obtain ⟨o', a', e'⟩ := ih (f u i)
    exact ⟨o', a', by rw [List.foldl_cons, e', e]⟩

/-- Step 4 touches points, by the OUT value rule, local outputs and the flags. -/
theorem outStep_image (before : State) (every outAll : Bool) (w : State) :
    ∃ outputs attention, outStep before every outAll w = { w with
      points := updAll (fun p rt => outAfter before w every outAll w.tables.points[p] rt) w.points
      outputs := outputs, attention := attention } := by
  unfold outStep
  dsimp only
  refine foldl_image _ (fun u p => ?_) _ _
  split
  · exact ⟨u.outputs, u.attention, rfl⟩
  · split
    · exact handOver_image _ _ u
    · exact ⟨u.outputs, u.attention, rfl⟩

/-- Step 2 writes DERIVED points only. -/
theorem derivedStep_points (before : State) (every : Bool) (w : State) (hb : w.tables.resultsBound)
    {p : PointNo} (hp : w.tables.source p ≠ .derived) :
    (derivedStep before every w).points[p] = w.points[p] := by
  unfold derivedStep
  suffices ∀ (es : List DerivedNo) (u : State), u.tables = w.tables → u.points[p] = w.points[p] →
      (es.foldl (fun s e =>
        let d := s.tables.derived[e]
        if d.kind ≠ .unused ∧ (d.used.any fun m => changed before s every m.point) then runDerived e s
        else s) u).points[p] = w.points[p] from this _ w rfl rfl
  intro es
  induction es with
  | nil => intro u _ h; exact h
  | cons e es ih =>
    intro u ht h
    rw [List.foldl_cons]
    dsimp only
    split
    · rename_i run
      have off : p ≠ u.tables.derived[e].result := by
        rintro rfl
        rw [ht] at run hp
        exact hp (hb e run.1)
      have got : (runDerived e u).tables = u.tables ∧ (runDerived e u).points[p] = u.points[p] := by
        unfold runDerived
        rcases computeDerived u e with ⟨result, state⟩
        cases result with
        | none => exact ⟨rfl, rfl⟩
        | some vq =>
          dsimp only
          split
          · exact ⟨rfl, rfl⟩
          · exact ⟨rfl, (updOne_get _ _ _ _).trans (if_neg off)⟩
      exact ih _ (got.1.trans ht) (got.2.trans h)
    · exact ih u ht h

/-! ## What stands, what is evaluated, what is handed over (R47, R62, R64, R71) -/

/-- Points that agree in both states differ from a third alike. -/
theorem differs_congr {before before' s t : State} {p : PointNo}
    (hb : before.points[p] = before'.points[p]) (h : s.points[p] = t.points[p]) :
    before.differs s p = before'.differs t p := by
  simp only [State.differs, hb, h]

/-- Step 2 leaves the trip state of an entry none of whose members changed. -/
theorem derivedStep_trips (before w : State) (e : DerivedNo) (hb : w.tables.resultsBound)
    (h : w.tables.derived[e].kind = .unused ∨ ∀ m ∈ w.tables.derived[e].used,
      w.tables.source m.point ≠ .derived ∧ w.tables.source m.point ≠ .feed ∧
        before.differs w m.point = false) :
    (derivedStep before false w).trips[e] = w.trips[e] := by
  unfold derivedStep
  suffices ∀ (es : List DerivedNo) (t : State), ImageChanged w t (fun _ => false) →
      t.trips[e] = w.trips[e] →
      (es.foldl (fun s e =>
        let d := s.tables.derived[e]
        if d.kind ≠ .unused ∧ (d.used.any fun m => changed before s false m.point) then runDerived e s
        else s) t).trips[e] = w.trips[e] from
    this _ w (imageChanged_refl w _) rfl
  intro es
  induction es with
  | nil => intro t _ ht; exact ht
  | cons e' es ih =>
    intro t hc ht
    have tables : t.tables = w.tables := by rw [hc.frame]
    rw [List.foldl_cons]
    dsimp only
    split
    · rename_i run
      refine ih _ (imageChanged_trans hc (imageChanged_runDerived e' t _ (by rw [tables]; exact hb e')))
        ?_
      by_cases he : e' = e
      · subst he
        rw [tables] at run
        exfalso
        rcases h with h | h
        · exact run.1 h
        · obtain ⟨m, hm, hch⟩ := List.any_eq_true.1 run.2
          obtain ⟨hd, hf, hdiff⟩ := h m hm
          rw [changed, Bool.false_or, differs_congr rfl (imageChanged_plain hc rfl hd hf), hdiff] at hch
          exact Bool.noConfusion hch
      · have only : (runDerived e' t).trips = t.trips.set e' (computeDerived t e').2 := by
          unfold runDerived
          rcases computeDerived t e' with ⟨result, state⟩
          cases result with
          | none => rfl
          | some vq =>
            dsimp only
            split <;> rfl
        rw [only, ← ht]
        simp only [Fin.getElem_fin, Vector.getElem_set]
        rw [if_neg fun x => he (Fin.ext x)]
    · exact ih t hc ht

/-- The evaluation of an entry reads only the points of its used terms. -/
theorem moveTerms_congr {s t : State} {c : InterlockCfg} (rt : InterlockRt) (now : s.now = t.now)
    (tables : s.tables = t.tables)
    (points : ∀ k : TermNo, k.val < c.count.val →
      s.points[c.terms[k].point] = t.points[c.terms[k].point]) :
    moveTerms s c rt = moveTerms t c rt := by
  unfold moveTerms
  congr 1
  apply vector_ext
  intro k
  rw [updAll_get, updAll_get]
  split
  · rename_i hk
    have hp := points k (by simpa [InterlockCfg.uses] using hk)
    simp only [now, termSatisfied, State.reading, tables, hp]
    cases c.terms[k].test <;> rfl
  · rfl

/-- A hand-over touches its own output only. -/
theorem handOver_outputs (o o' : OutputNo) (v : Word32) (t : State) (mode : t.mode ≠ .config) :
    (handOver o' v t).outputs[o] =
      if o' = o then (handed t t.tables.outputs[o] v t.outputs[o]).1 else t.outputs[o] := by
  unfold handOver
  rw [if_neg mode]
  by_cases h : o' = o
  · subst h
    rcases handed t t.tables.outputs[o'] v t.outputs[o'] with ⟨rt, ignored⟩
    cases ignored <;> simp [updOutput, setFlagIf, setFlag]
  · rcases handed t t.tables.outputs[o'] v t.outputs[o'] with ⟨rt, ignored⟩
    have : o ≠ o' := fun x => h x.symm
    cases ignored <;> simp [updOutput, setFlagIf, setFlag, updOne_get, h, this, -Fin.getElem_fin]

/-- What a hand-over reads besides the output. -/
theorem handed_congr {s t : State} (c : OutputCfg) (v : Word32) (rt : OutputRt) (now : s.now = t.now)
    (lamp : s.lampIndex = t.lampIndex) (inputs : s.inputs = t.inputs) :
    handed s c v rt = handed t c v rt := by
  have pattern : patternDrive s c v = patternDrive t c v := by simp only [patternDrive, lampBit, lamp]
  have enable : disabled s c = disabled t c := by
    unfold disabled
    cases c.enableNo with
    | none => rfl
    | some i => simp only [inputs]
  have begin_ : beginTrain s c v rt = beginTrain t c v rt := by
    simp only [beginTrain, enable, startTimer, now]
  simp only [handed, pattern, begin_]

/-- Step 4 leaves a local output none of whose OUT points changed, and hands over the value of the one
that did. -/
theorem outStep_outputs (before : State) (every outAll : Bool) (w : State) (o : OutputNo) :
    let t := outStep before every outAll w
    ((∀ p, w.tables.points[p].localTarget = some o → w.differs t p = false) →
      t.outputs[o] = w.outputs[o]) ∧
    ∀ p, w.tables.points[p].localTarget = some o →
      (∀ q, w.tables.points[q].localTarget = some o → q = p) → w.differs t p = true →
      w.mode ≠ .config →
      t.outputs[o] = (handed w w.tables.outputs[o] t.points[p].value w.outputs[o]).1 := by
  intro t
  let after : State := { w with
    points := updAll (fun p rt => outAfter before w every outAll w.tables.points[p] rt) w.points }
  let hand := fun (t : State) (p : PointNo) => match w.tables.points[p].localTarget with
    | none => t
    | some o => if w.differs after p then handOver o after.points[p].value t else t
  have ht : t = (indicesOf (fun c : PointCfg => c.localTarget.isSome) w.tables.points).foldl hand after :=
    rfl
  -- every hand-over changes the image alone, and no point
  have step (u : State) (p : PointNo) (hu : ImageChanged after u (fun _ => true))
      (hp : u.points = after.points) :
      ImageChanged after (hand u p) (fun _ => true) ∧ (hand u p).points = after.points := by
    dsimp only [hand]
    split
    · exact ⟨hu, hp⟩
    · split
      · rename_i o' _ _
        refine ⟨imageChanged_trans hu (imageChanged_handOver _ _ u _), ?_⟩
        obtain ⟨_, _, e⟩ := handOver_image o' after.points[p].value u
        rw [e]
        exact hp
      · exact ⟨hu, hp⟩
  have points : t.points = after.points := by
    rw [ht]
    suffices ∀ (ps : List PointNo) (u : State), ImageChanged after u (fun _ => true) →
        u.points = after.points → (ps.foldl hand u).points = after.points from
      this _ after (imageChanged_refl _ _) rfl
    intro ps
    induction ps with
    | nil => intro u _ hp; exact hp
    | cons p ps ih => intro u hu hp; exact ih _ (step u p hu hp).1 (step u p hu hp).2
  have differs (p : PointNo) : w.differs t p = w.differs after p :=
    differs_congr rfl (by rw [points])
  constructor
  · intro none_
    rw [ht]
    suffices ∀ (ps : List PointNo) (u : State), u.outputs[o] = w.outputs[o] →
        (ps.foldl hand u).outputs[o] = w.outputs[o] from this _ after rfl
    intro ps
    induction ps with
    | nil => intro u h; exact h
    | cons p ps ih =>
      intro u h
      refine ih _ ?_
      dsimp only [hand]
      split
      · exact h
      · rename_i o' htar
        split
        · rename_i hdiff
          have : o' ≠ o := by
            rintro rfl
            rw [← differs, none_ p htar] at hdiff
            exact Bool.noConfusion hdiff
          by_cases hm : u.mode = .config
          · rw [handOver, if_pos hm]; exact h
          · rw [handOver_outputs o o' _ u hm, if_neg this]; exact h
        · exact h
  · intro p hp only hdiff hmode
    rw [differs] at hdiff
    rw [points, ht]
    have listed : p ∈ indicesOf (fun c : PointCfg => c.localTarget.isSome) w.tables.points := by
      rw [mem_indicesOf, hp]; rfl
    suffices ∀ (ps : List PointNo), ps.Nodup → ∀ u : State, ImageChanged after u (fun _ => true) →
        u.points = after.points → u.outputs[o] = w.outputs[o] →
        (ps.foldl hand u).outputs[o] =
          if p ∈ ps then (handed w w.tables.outputs[o] after.points[p].value w.outputs[o]).1
          else w.outputs[o] by
      have nodup := (indicesOf_ascending (fun c : PointCfg => c.localTarget.isSome)
        w.tables.points).imp (S := (· ≠ ·)) fun h => Fin.ne_of_lt h
      rw [this _ nodup after (imageChanged_refl _ _) rfl rfl, if_pos listed]
    intro ps
    induction ps with
    | nil => intro _ u _ _ h; simpa using h
    | cons q ps ih =>
      intro nodup u hu hpt h
      rw [List.nodup_cons] at nodup
      rw [List.foldl_cons]
      by_cases hq : q = p
      · subst hq
        rw [if_pos List.mem_cons_self]
        -- the rest of the list does not reach the output
        have rest : ∀ (ps : List PointNo), q ∉ ps → ∀ u : State,
            (ps.foldl hand u).outputs[o] = u.outputs[o] := by
          intro ps
          induction ps with
          | nil => intro _ u; rfl
          | cons r ps ih =>
            intro hr u
            rw [List.mem_cons, not_or] at hr
            rw [List.foldl_cons, ih hr.2]
            dsimp only [hand]
            split
            · rfl
            · rename_i o' htar
              split
              · have : o' ≠ o := by
                  rintro rfl
                  exact hr.1 (only r htar).symm
                by_cases hm : u.mode = .config
                · rw [handOver, if_pos hm]
                · rw [handOver_outputs o o' _ u hm, if_neg this]
              · rfl
        rw [rest ps nodup.1]
        dsimp only [hand]
        rw [hp]
        dsimp only
        rw [if_pos hdiff]
        have fr := hu.frame
        have hm : u.mode ≠ .config := by rw [fr]; exact hmode
        rw [handOver_outputs o o _ u hm, if_pos rfl, h]
        rw [show u.tables = w.tables by rw [fr]]
        rw [handed_congr (s := u) (t := w) _ _ _ (by rw [fr]) (by rw [fr]) (by rw [fr])]
      · have unmoved : (hand u q).outputs[o] = w.outputs[o] := by
          dsimp only [hand]
          split
          · exact h
          · rename_i o' htar
            split
            · have : o' ≠ o := by
                rintro rfl
                exact hq (only q htar)
              by_cases hm : u.mode = .config
              · rw [handOver, if_pos hm]; exact h
              · rw [handOver_outputs o o' _ u hm, if_neg this]; exact h
            · exact h
        rw [ih nodup.2 (hand u q) (step u q hu hpt).1 (step u q hu hpt).2 unmoved]
        have : p ∈ q :: ps ↔ p ∈ ps := by
          rw [List.mem_cons]
          exact ⟨fun x => x.resolve_left fun y => hq y.symm, .inr⟩
        simp only [this]

/-- A whole update: from `w`, as it stands before the grant, by its write step to `v`, and through steps 2
to 4. Only what `Updated` allows has changed. -/
theorem settle_updated {before w v : State} {also : List InterlockNo} {written : PointNo → Bool}
    (hb : w.tables.resultsBound) (grant_ : before.points = w.points) (write : ImageChanged w v written)
    (outs : ∀ p, written p = false → w.tables.source p = .feed → v.points[p] = w.points[p])
    (trips : ∀ e : DerivedNo,
      (∀ p, written p = true → w.tables.source p = .derived → w.tables.points[p].refA ≠ e) →
      v.trips[e] = w.trips[e])
    (interlocks : ∀ e : InterlockNo, e ∉ also → v.interlocks[e] = w.interlocks[e])
    (outputs : v.outputs = w.outputs) : Updated w (settle before also v) written also := by
  have vt : v.tables = w.tables := by rw [write.frame]
  have hbv : v.tables.resultsBound := by rw [vt]; exact hb
  have whole := imageChanged_trans write (settle_imageChanged before also v written hbv)
  have fr := whole.frame
  -- the states between the steps
  obtain ⟨s2, h2⟩ : ∃ x, x = derivedStep before false v := ⟨_, rfl⟩
  obtain ⟨s3, h3⟩ : ∃ x, x = interlockStep before false also s2 := ⟨_, rfl⟩
  obtain ⟨all, hall⟩ : ∃ x, x = decide (v.mode ≠ before.mode) := ⟨_, rfl⟩
  have settled : settle before also v = outStep before false all s3 := by rw [h3, h2, hall]; rfl
  have c2 : ImageChanged v s2 (fun _ => false) := by
    rw [h2]; exact imageChanged_derivedStep before false v _ hbv
  have c3 : ImageChanged v s3 (fun _ => false) := by
    rw [h3]; exact imageChanged_trans c2 (imageChanged_interlockStep before false also s2 _)
  have t2 : s2.tables = w.tables := by rw [c2.frame]; exact vt
  have t3 : s3.tables = w.tables := by rw [c3.frame]; exact vt
  obtain ⟨outputs4, attention4, e4⟩ := outStep_image before false all s3
  obtain ⟨points2, trips2, e2⟩ := derivedStep_image before false v
  rw [← h2] at e2
  have points4 : (settle before also v).points =
      updAll (fun p rt => outAfter before s3 false all s3.tables.points[p] rt) s3.points := by
    rw [settled, e4]
  have points3 : s3.points = s2.points := by rw [h3]; rfl
  have interlocks4 : (settle before also v).interlocks = s3.interlocks := by rw [settled, e4]
  have interlocks2 : s2.interlocks = v.interlocks := by rw [e2]
  have trips4 : (settle before also v).trips = s2.trips := by rw [settled, e4, h3]; rfl
  -- a point that is not an OUT point is settled by step 2
  have same (p : PointNo) (hf : w.tables.source p ≠ .feed) :
      (settle before also v).points[p] = s2.points[p] := by
    rw [points4, updAll_get, t3, points3]
    unfold outAfter
    rw [if_neg (by show ¬ w.tables.source p = .feed; exact hf)]
  have moved (p : PointNo) (hf : w.tables.source p ≠ .feed) :
      changed before s2 false p = w.differs (settle before also v) p := by
    rw [changed, Bool.false_or]
    exact differs_congr (by rw [grant_]) (same p hf).symm
  have entry (e : InterlockNo) : (settle before also v).interlocks[e] =
      (if w.tables.interlocks[e].mode = .unused then v.interlocks[e]
      else if hasChangedTerm before s2 false w.tables.interlocks[e] then
        recompute s2 e w.tables.interlocks[e] (moveTerms s2 w.tables.interlocks[e] v.interlocks[e])
      else if also.contains e then recompute s2 e w.tables.interlocks[e] v.interlocks[e]
      else v.interlocks[e]) := by
    rw [interlocks4, h3]
    unfold interlockStep
    rw [updAll_get, t2, interlocks2]
  have w3 : ImageChanged w s3 written := by
    rw [h3]
    refine imageChanged_trans write (imageChanged_trans ?_
      (imageChanged_interlockStep before false also s2 written))
    rw [h2]
    exact imageChanged_derivedStep before false v written hbv
  have outs3 (o : OutputNo) : s3.outputs[o] = w.outputs[o] := by
    have : s3.outputs = v.outputs := by rw [h3, e2]; rfl
    rw [this, outputs]
  have isFeed (p : PointNo) (o : OutputNo) (h : w.tables.points[p].localTarget = some o) :
      w.tables.source p = .feed := by
    unfold PointCfg.localTarget at h
    split at h
    · rename_i x; exact x.1
    · cases h
  have feed3 (p : PointNo) (hw : written p = false) (hf : w.tables.source p = .feed) :
      s3.points[p] = w.points[p] := by
    rw [← outs p hw hf, points3, h2]
    exact derivedStep_points before false v hbv (by rw [vt, hf]; decide)
  refine
    { toImageChanged := whole, trips := ?_, standing := ?_, evaluated := ?_, outputsStand := ?_
      outputsHanded := ?_ }
  · intro e hw hm
    rw [trips4, ← trips e hw, h2]
    refine derivedStep_trips before v e hbv ?_
    rw [vt]
    refine hm.imp id fun hm m mem => ?_
    obtain ⟨hd, hf, hdiff⟩ := hm m mem
    refine ⟨hd, hf, ?_⟩
    rw [← hdiff, ← moved m.point hf, changed, Bool.false_or]
    exact differs_congr rfl (imageChanged_plain c2 rfl (by rw [vt]; exact hd) (by rw [vt]; exact hf)).symm
  · intro e he off hm
    rw [entry e, interlocks e he]
    split
    · rfl
    · rename_i used
      have hn : hasChangedTerm before s2 false w.tables.interlocks[e] = false := by
        rw [hasChangedTerm, List.any_eq_false]
        intro k _
        rcases hm with hm | hm
        · exact absurd hm used
        · by_cases hk : k.val < w.tables.interlocks[e].count.val
          · rw [moved _ (off k hk), hm k hk]; simp
          · rw [InterlockCfg.uses, decide_eq_false hk, Bool.false_and]; exact Bool.false_ne_true
      rw [hn]
      simp [he]
  · intro e he off used ⟨k, hk, hc⟩
    have hy : hasChangedTerm before s2 false w.tables.interlocks[e] = true := by
      rw [hasChangedTerm, List.any_eq_true]
      refine ⟨k, List.mem_finRange k, ?_⟩
      rw [moved _ (off k hk), hc]
      rw [InterlockCfg.uses, decide_eq_true hk, Bool.true_and]
    rw [entry e, if_neg used, if_pos hy, interlocks e he]
    have n2 : s2.now = (settle before also v).now := by
      rw [c2.frame, (settle_imageChanged before also v written hbv).frame]
    have b2 : s2.bypasses = (settle before also v).bypasses := by
      rw [c2.frame, (settle_imageChanged before also v written hbv).frame]
    rw [moveTerms_congr (s := s2) (t := settle before also v) w.interlocks[e] n2
      (by rw [t2, fr]) fun j hj => (same _ (off j hj)).symm]
    simp only [recompute, State.isBypassed, b2]
  · intro o ho
    rw [settled] at ho ⊢
    rw [← outs3 o]
    refine (outStep_outputs before false all s3 o).1 fun p hp => ?_
    rw [t3] at hp
    obtain ⟨hw, hd⟩ := ho p hp
    exact (differs_congr (feed3 p hw (isFeed p o hp)) rfl).trans hd
  · intro o p hp only hw hd mode
    rw [settled] at hd ⊢
    rw [t3.symm] at hp
    have := (outStep_outputs before false all s3 o).2 p hp (fun q hq => only q (by rw [← t3]; exact hq)) ?_ ?_
    · rw [this, outs3, t3]
      rw [handed_congr (s := s3) (t := w) _ _ _ (by rw [w3.frame]) (by rw [w3.frame]) (by rw [w3.frame])]
    · rw [t3] at hp
      exact (differs_congr (feed3 p hw (isFeed p o hp)) rfl).trans hd
    · rw [w3.frame]; exact mode

/-- An update whose write step changes points alone, as `written` names them. -/
theorem settle_written {before w : State} {written : PointNo → Bool} (hb : w.tables.resultsBound)
    (grant_ : before.points = w.points) (points : Vector PointRt 384)
    (hp : ∀ p, written p = false → points[p] = w.points[p]) :
    Updated w (settle before [] { w with points := points }) written := by
  refine settle_updated hb grant_ { frame := rfl, flags := fun _ _ => rfl, points := ?_ }
    (fun p h _ => hp p h) (fun _ _ => rfl) (fun _ _ => rfl) rfl
  intro p h
  have e := hp p h
  show points[p] = _
  rw [e]
  cases w.tables.source p <;> simp

end Sys2Proof.Machine
end

