-- ==== Sys2Proof/Tests/Slice0.lean ====
section
/-! SUPPORT. Tests: ill-formed commands that WellFormed refuses, the worked cases and tables of the
manual as single steps on small states, and for each statement with hypotheses states that meet them. -/

namespace Sys2Proof.Tests

open Sys2Proof Sys2Proof.Machine

-- One theorem after the other: side by side their kernel checks would take too many threads.
set_option Elab.async false

/-! ## WellFormed -/

/-- A payload of 251 octets is longer than a telegram carries (R90). -/
theorem test_wf_exchange_too_long : (Instr.exchange 0 (List.replicate 251 0)).wellFormed = false := by
  decide +kernel
theorem test_wf_exchange_longest : (Instr.exchange 0 (List.replicate 250 0)).wellFormed = true := by
  decide +kernel
theorem test_wf_fetch_too_long : (Instr.fetch 0 (List.replicate 251 0)).wellFormed = false := by
  decide +kernel
theorem test_wf_write_too_long :
    (Instr.writeEntry 0 1 0 (List.replicate 247 0)).wellFormed = false := by decide +kernel
theorem test_wf_forward_too_long :
    (Instr.forward 0 13 (List.replicate 251 0)).wellFormed = false := by decide +kernel
theorem test_wf_forward_to_zero : (Instr.forward 0 0 []).wellFormed = false := by decide
theorem test_wf_capture_no_input : (Instr.captureLevelChange 0 [] 0).wellFormed = false := by decide
theorem test_wf_capture_twice :
    (Instr.captureLevelChange 0 [(.a, true), (.a, false)] 0).wellFormed = false := by decide
theorem test_wf_capture_z_elsewhere :
    (Instr.captureLevelChange 1 [(.z, true)] 0).wellFormed = false := by decide
theorem test_wf_expiry_no_input : (Instr.captureDebounceExpiry 0 []).wellFormed = false := by decide
theorem test_wf_expiry_twice : (Instr.captureDebounceExpiry 2 [.b, .b]).wellFormed = false := by decide
theorem test_wf_expiry_z_elsewhere : (Instr.captureDebounceExpiry 3 [.z]).wellFormed = false := by
  decide
theorem test_wf_capture_pair :
    (Instr.captureLevelChange 0 [(.a, true), (.b, true), (.z, true)] 0).wellFormed = true := by decide

/-! ## States to test on -/

/-- The next state of a command; the state itself where it gives none (no command does). -/
def after (c : Instr) (s : State) : State :=
  match exec c s with
  | .next t => t
  | .fault _ | .refused _ => s

/-- The payload the drive port is sending. -/
def answer (s : State) : List Octet :=
  match s.ports.drive.sending with
  | some o => o.telegram.payload
  | none => []

/-- Point records at the numbers given, the rest unused. -/
def pointsAt (l : List (PointNo × PointCfg)) : Vector PointCfg 384 :=
  l.foldl (fun v e => v.set e.1 e.2) (Vector.replicate 384 {})

/-- A GOOD point's runtime. -/
def good (v : Int) : PointRt := { value := BitVec.ofInt 32 v, quality := .good, seed := true }

/-- The points take these runtimes. -/
def withPoints (l : List (PointNo × PointRt)) (s : State) : State :=
  { s with points := l.foldl (fun v e => v.set e.1 e.2) s.points }

/-- A request stands alone at the head of the arbiter's list. -/
def granting (r : Request) (s : State) : State := { s with arbiter := [r] }

/-- A management update waits for its grant. -/
def waitingFor (c : Command) (s : State) : State :=
  { s with arbiter := [.manage c], service := some ⟨manageTelegram 0 c, .requested⟩ }

/-- The first step of a state with one command in its queue. -/
def ran (c : Instr) (s : State) : State := { s with pending := [c] }

/-- A point as a triple: its value, quality and latch. -/
def shown (s : State) (p : PointNo) : Int × Quality × Bool :=
  (s.points[p].value.toInt, s.points[p].quality, s.points[p].latch)

/-- A corner load pin (section 2.7): word 0 of the node. -/
def loadPin (n : Fin 32) : PointCfg :=
  { source := .node, refA := n, refB := 256, form := .ana, high := 6000, zero := 400, gain := 22
    holdLimit := 40 }

/-- A BIN point on an input bit of a node. -/
def inputBit (n : Fin 32) (bit : PointNo) : PointCfg :=
  { source := .node, refA := n, refB := bit, form := .bin, holdLimit := 50 }

def derivedAna (e : Fin 32) (low high : Int) : PointCfg :=
  { source := .derived, refA := e, form := .ana, low := BitVec.ofInt 32 low
    high := BitVec.ofInt 32 high }

/-- An OUT point on output bit 0 of a node. -/
def coil (feed : PointNo) (guard : InterlockNo) (n : Fin 16) : PointCfg :=
  { source := .feed, refB := feed, form := .bin, guard := some guard, targetKind := .nodeOutBit
    targetA := n }

def members (l : List (PointNo × Int)) : Vector Member 4 :=
  let at_ (k : Nat) : Member := (l[k]?.map fun e => ⟨e.1, e.2⟩).getD {}
  #v[at_ 0, at_ 1, at_ 2, at_ 3]

/-- A corner module as in section 6.11. -/
def corner (a : Addr) : NodeCfg :=
  { enabled := true, address := a, expectedType := 33, inputBits := 10, inputWords := 2
    outputBits := 3, outputWords := 1, pollMask := 1 }

/-- The spreader of sections 2.7, 3.9, 4.9, 4.10 and 9.8 as one set of tables. -/
def crane : Tables where
  points := pointsAt
    [(40, loadPin 1), (41, loadPin 2), (42, loadPin 3), (43, loadPin 4),
      (44, inputBit 1 0), (45, inputBit 2 0), (46, inputBit 3 0), (47, inputBit 4 0),
      (100, derivedAna 0 0 24000), (101, derivedAna 1 (-12000) 12000),
      (102, derivedAna 2 (-1000) 1000), (103, { source := .derived, refA := 3 }),
      (104, { source := .derived, refA := 4 }), (105, { source := .derived, refA := 5 }),
      (106, derivedAna 6 0 4), (110, { source := .plc }),
      (111, { source := .plc, form := .word, high := 255 }),
      (112, { source := .line, refA := 5 }), (120, { source := .state, refA := 3 }),
      (130, { source := .channel, form := .ana, gain := 256, low := BitVec.ofInt 32 (-100000)
              high := 100000 }),
      (200, { inputBit 8 4 with policy := .safe }), (202, inputBit 8 5),
      (210, coil 200 12 1), (212, coil 202 20 5),
      (220, { source := .feed, refB := 111, form := .word, high := 255, guard := none
              targetKind := .localOut, targetA := 3 })]
  nodes := (((((Vector.replicate 16 {}).set 1 (corner 11)).set 2 (corner 12)).set 3
    (corner 13)).set 4 (corner 14) |>.set 5 { enabled := true, address := 15, outputBits := 1, pollMask := 1 }).set 8
      { enabled := true, segment := .cab, address := 41, expectedType := 50, inputBits := 8
        pollMask := 1 }
  derived := ((((((Vector.replicate 32 {}).set 0
    { kind := .sum, result := 100, count := 4, members := members [(40, 1), (41, 1), (42, 1), (43, 1)] }).set 1
    { kind := .sum, result := 101, count := 4, members := members [(40, 1), (41, 1), (42, -1), (43, -1)] }).set 2
    { kind := .ratio, result := 102, count := 2, members := members [(101, 0), (100, 0)] }).set 3
    { kind := .trip, result := 103, count := 1, members := members [(100, 0)], setLevel := 5000
      resetLevel := 4800, failValue := true }).set 4
    { kind := .trip, result := 104, count := 1, members := members [(102, 0)], setLevel := 150
      resetLevel := 120, failValue := true }).set 5
    { kind := .trip, result := 105, count := 1, members := members [(102, 0)], falling := true
      setLevel := BitVec.ofInt 32 (-150), resetLevel := BitVec.ofInt 32 (-120), failValue := true }
    |>.set 6
    { kind := .sum, result := 106, count := 4, members := members [(44, 1), (45, 1), (46, 1), (47, 1)] }
  interlocks := ((Vector.replicate 48 {}).set 12
    { mode := .rearm, count := 3
      terms := #v[⟨106, .atLeast, 4, 20⟩, ⟨103, .isZero, 0, 0⟩, ⟨110, .isOne, 0, 0⟩, {}] }).set 20
    { mode := .rearm, bypassable := true, count := 1, terms := #v[⟨106, .atMost, 0, 0⟩, {}, {}, {}] }
  forwards := (((Vector.replicate 8 {}).set 0
    { target := some .spreader, matchValue := 8, matchMask := 56, answerExpected := true }).set 1
    { target := some .cab, matchValue := 40, matchMask := 56, answerExpected := true }).set 2
    { target := some .spreader, matchValue := 63, matchMask := 63 }
  writeList := ((Vector.replicate 32 none).set 0 (some 110)).set 1 (some 111)
  emitList := ((Vector.replicate 48 none).set 0 (some 210)).set 1 (some 112)
  outputs := (Vector.replicate 8 {}).set 3
    { mode := .train, highTime := 50, lowTime := 50, enableInput := 5, disablingLevel := true }
  inputs := (Vector.replicate 8 {}).set 5 { debounce := 50 }
  channels := (((Vector.replicate 4 {}).set 0
    { mode := .quad, debounce := 2, preset := 1000, index := .presetOnce }).set 1
    { mode := .count, limit := 500 }).set 2 { mode := .period }

def online : NodeRt := { link := .online }

def heldTerm : TermRt := { state := .held }

/-- In RUN, containers hang on the spreader, no corner landed, no button pressed (section 4.9). -/
def hanging : State :=
  withPoints [(40, good 997), (41, good 1012), (42, good 1130), (43, good 1105),
    (44, good 0), (45, good 0), (46, good 0), (47, good 0), (100, good 4244), (101, good (-226)),
    (102, good (-53)), (103, good 0), (104, good 0), (105, good 0), (106, good 0), (110, good 0),
    (111, good 0), (112, good 0), (120, good 1), (130, good 1000), (200, good 0), (202, good 0),
    (210, { quality := .substituted }), (212, good 0), (220, good 0)]
  { State.reset with
    mode := .run, tables := crane, cycleTimer := .running 160000, lampTimer := .running 4000000
    silenceTimer := .running 3200000
    nodes := (((((Vector.replicate 16 {}).set 1 online).set 2 online).set 3 online).set 4 online |>.set 5 online).set 8 online
    interlocks := ((Vector.replicate 48 {}).set 12
      { terms := #v[{}, heldTerm, {}, {}] }).set 20
      { terms := #v[heldTerm, {}, {}, {}], permit := true, effective := true }
    segs := ⟨{ work := .gap }, { work := .gap }⟩ }

/-- The same with the spreader landed and the ropes slack: entry 12 permits, entry 20 does not. -/
def landed : State :=
  let s := withPoints [(44, good 1), (45, good 1), (46, good 1), (47, good 1), (106, good 4),
    (110, good 1), (210, good 0), (212, { quality := .substituted })] hanging
  { s with
    interlocks := ((Vector.replicate 48 {}).set 12
      { terms := #v[heldTerm, heldTerm, heldTerm, {}], permit := true, effective := true }) }

/-- The tables of the worked cases pass START validation. -/
theorem test_crane_valid : validate crane = none := by decide +kernel

/-- R2, R179: a reference from the DERIVED table or the write list to a point of source NONE fails by check
1, before checks 9 and 12. -/
theorem test_unused_point_named :
    validate { derived := (Vector.replicate 32 {}).set 0 { kind := .sum } } = some ⟨3, 0, 1⟩ ∧
      validate { writeList := (Vector.replicate 32 none).set 1 (some 7) } = some ⟨6, 1, 1⟩ := by
  decide +kernel

/-! ## Arithmetic of chapters 2 and 3 -/

/-- Section 2.7: the raw words of the corner load pins. -/
theorem test_intake_conversions :
    ([12000, 12176, 13549, 13258, 300].map fun raw =>
      convert (loadPin 1) (.word (BitVec.ofNat 16 raw))) =
      [(997, .good), (1012, .good), (1130, .good), (1105, .good), (0, .limited)] := by
  decide +kernel

/-- Section 3.9: −226 in per mille of 4244 rounds to −53. -/
theorem test_ratio_rounds : perMille (-226) 4244 = -53 := by decide +kernel

/-- The table of R52: the overload trip at and between its levels. -/
theorem test_trip_hysteresis :
    ([(5000, false), (4999, true), (4801, true), (4800, true)].map fun e : Int × Bool =>
      tripState crane.derived[(3 : DerivedNo)] e.1 e.2) = [true, true, true, false] := by
  decide +kernel

/-! ## Lines and telegrams of chapter 5 -/

/-- Section 5.2: the first four octets of a SAFE telegram with their stuffed bits. -/
theorem test_safe_line_bits :
    stuff false 1 ([63, 62, 12 + 36, 0].flatMap octetBits) =
      [true, true, true, true, true, true, false, false, false,
        false, true, true, true, true, true, false, false,
        false, false, false, false, true, true, true, false, false,
        false, false, false, false, true, false, false, false, false] := by decide +kernel

/-- The SAFE telegram as the part sends it (section 5.2, R91, R92). -/
theorem test_safe_octets :
    safeTelegram.telegram.body = [63, 62, 48, 0] := by decide +kernel

/-- Node 3 is polled and its reply is awaited, its POLL just sent (section 5.7). -/
def polling : State :=
  { hanging with
    segs := ⟨{ work := .exchange 3 true, window := .running 8000 }, {}⟩
    ports := { State.reset.ports with spreader := { awaited := .reply 13 } }
    nodes := hanging.nodes.set 3 { link := .online, lastSeq := 0 } }

/-- The spreader port in the middle of a reception that has collected these octets. -/
def holding (octets : List Octet) (s : State) : State :=
  updPort .spreader (fun r => { r with rx := .receiving, content := octets }) s

/-- Section 5.7: a reply cut after nine octets is BROKEN, and a miss of cause NOISE. -/
theorem test_reception_broken_cut_reply :
    let s := after (.receptionBroken .spreader) (holding (List.replicate 9 5) polling)
    s.ports.spreader.rx = .seeking ∧ s.ports.spreader.awaited = .nothing ∧
      s.ports.spreader.counters.toList = [0, 0, 0, 0, 0, 1, 0, 0, 0] ∧
      s.flag .lineFault = true ∧ s.nodes[3].link = .suspect ∧
      s.nodes[3].counters.toList = [0, 0, 0, 1, 0, 0, 0, 0] := by decide +kernel

/-- Section 5.7: the closing fence met in SEEKING opens a reception. -/
theorem test_opening_fence :
    (after (.openingFence .spreader) polling).ports.spreader.rx = .receiving := by decide +kernel

/-- Section 5.7: the quiet after that fence ends it without an outcome. -/
theorem test_reception_ended_without_outcome :
    let s := after (.receptionEndedWithoutOutcome .spreader) (holding [] polling)
    s.ports.spreader.rx = .seeking ∧ s.ports.spreader.counters = polling.ports.spreader.counters ∧
      s.attention = 0 := by decide +kernel

/-- Section 5.7: a stale REPLY while nothing is awaited is UNEXPECTED and sets no LINE_FAULT. -/
theorem test_telegram_end_unexpected :
    let s := after (.telegramEnd .spreader)
      (holding (Telegram.octets ⟨62, 14, .reply, 2, [33, 0, 0, 0, 0, 0, 0]⟩) hanging)
    s.ports.spreader.counters.toList = [0, 0, 0, 0, 0, 0, 0, 0, 1] ∧ s.attention = 0 ∧
      s.ports.spreader.rx = .receiving := by decide +kernel

/-- R91: a telegram to address 0 is NOT FOR US on a node port, with a reply awaited and with none. -/
theorem test_telegram_to_nobody :
    ([hanging, polling].map fun s =>
      (after (.telegramEnd .spreader) (holding (Telegram.octets ⟨0, 13, .reply, 0, [33]⟩) s)
        ).ports.spreader.counters.toList) =
      [[0, 1, 0, 0, 0, 0, 0, 0, 0], [0, 1, 0, 0, 0, 0, 0, 0, 0]] := by decide +kernel

/-- R96: while 13 is awaited, a REPLY of another node is NOT FOR US and the exchange waits on. -/
theorem test_telegram_end_not_for_us :
    let s := after (.telegramEnd .spreader)
      (holding (Telegram.octets ⟨62, 14, .reply, 2, [33, 0, 0, 0, 0, 0, 0]⟩) polling)
    s.ports.spreader.counters.toList = [0, 1, 0, 0, 0, 0, 0, 0, 0] ∧
      s.segs.spreader.work = .exchange 3 true := by decide +kernel

/-- R88: the 257th octet ends the reception as OVERLONG. -/
theorem test_reception_overlong :
    let s := after (.receptionOverlong .spreader) (holding (List.replicate 256 5) hanging)
    s.ports.spreader.counters.toList = [0, 0, 0, 1, 0, 0, 0, 0, 0] ∧
      s.ports.spreader.rx = .seeking := by decide +kernel

theorem test_content_octet_collected :
    (after (.contentOctetCollected .spreader 7) (holding [5] hanging)).ports.spreader.content =
      [5, 7] := by decide +kernel

/-- Section 5.7: at the end of the POLL's transmission the receiver seeks and the reply window, 500 µs,
starts (R125). -/
theorem test_end_of_transmission_of_poll :
    let s := after (.endOfTransmission .spreader)
      (updPort .spreader (fun r => { r with rxOpen := false, sending := some (pollTelegram hanging 3) })
        polling)
    s.ports.spreader.rx = .seeking ∧ s.ports.spreader.rxOpen = true ∧
      s.ports.spreader.awaited = .reply 13 ∧ s.segs.spreader.window = .running (500 * 16) := by
  decide +kernel

/-! ## Nodes (chapter 6) -/

/-- Section 6.11: bits 1, 0, 1 and the word 500 as the POLL's payload. -/
theorem test_poll_payload :
    let s : State := { State.reset with
      tables := { crane with
        points := pointsAt [(1, coil 0 0 1), (2, { coil 0 0 1 with targetB := 1 }),
          (3, { coil 0 0 1 with targetB := 2 }), (4, { coil 0 0 1 with targetKind := .nodeOutWord })] }
      points := (withPoints [(1, good 1), (2, good 0), (3, good 1), (4, good 500)] State.reset).points }
    pollPayload s 1 = [5, 1, 244] := by decide +kernel

/-- Section 6.11: replies A, B and C. -/
theorem test_reply_judged :
    [judgeReply (corner 11) [33, 0, 0, 0, 0, 0, 0], judgeReply (corner 11) [34, 0, 0, 0, 0, 0, 0],
      judgeReply (corner 11) [33, 0, 0, 0, 0]] =
      [.good [33, 0, 0, 0, 0, 0, 0], .identity, .format] := by decide +kernel

/-- Section 6.12: the third miss, a TIMEOUT, makes the loss pending. -/
theorem test_reply_window_third_miss :
    let s := after (.replyWindowExpiry .spreader)
      { polling with nodes := hanging.nodes.set 3 { link := .suspect, misses := 2 } }
    s.nodes[3].link = .suspect ∧ s.nodes[3].lossPending = true ∧ s.nodes[3].misses = 0 ∧
      s.arbiter = [.nodeLoss 3 (some 8000)] ∧ s.segs.spreader.work = .turnaround := by decide +kernel

/-- R126: with an octet collected, the expired window waits. -/
theorem test_reply_window_waits :
    let s := after (.replyWindowExpiry .spreader) (holding [62] polling)
    s.segs.spreader.windowExpired = true ∧ s.segs.spreader.work = .exchange 3 true := by
  decide +kernel

/-- Section 6.12: the loss granted. Point 42, HOLD, goes STALE in the batch, its timer cancelled. -/
theorem test_node_loss_update :
    let s := after .nodeLossUpdate (granting (.nodeLoss 3 none) (withPoints
      [(42, { good 1130 with hold := .running 640000 })]
      { hanging with nodes := hanging.nodes.set 3 { link := .suspect, lossPending := true } }))
    s.nodes[3].link = .lost ∧ shown s 42 = (1130, .stale, false) ∧ s.points[42].hold = .stopped ∧
      shown s 120 = (0, .good, false) ∧ s.flag .nodeLost = true ∧ s.flag .pointStale = false := by
  decide +kernel

/-- Section 6.12: the third good reply of a rejoin brings the node back with its data. -/
theorem test_telegram_end_rejoins :
    let s := after (.telegramEnd .spreader)
      (holding (Telegram.octets ⟨62, 13, .reply, 0, [33, 0, 0, 52, 237, 0, 0]⟩)
        { polling with nodes := hanging.nodes.set 3 { link := .rejoining, goods := 2, lastSeq := 0 } })
    s.nodes[3].link = .online ∧ s.nodes[3].goods = 0 ∧
      s.arbiter = [.replyIntake 3 [33, 0, 0, 52, 237, 0, 0] true] := by decide +kernel

/-- Section 6.12: the data granted. Raw 13549 is 1130, and the STATE point is 1. -/
theorem test_reply_intake_update :
    let s := after .replyIntakeUpdate (granting (.replyIntake 3 [33, 0, 0, 52, 237, 0, 0] true)
      (withPoints [(42, { value := 1130, quality := .stale }), (120, good 0)] hanging))
    shown s 42 = (1130, .good, false) ∧ s.points[42].hold = .running 640000 ∧
      shown s 120 = (1, .good, false) := by decide +kernel

/-! ## The point image (chapter 1) -/

/-- Section 1.9, first order: the hold expiry is requested and the timer counts as running. -/
theorem test_hold_timer_expiry :
    let s := after (.holdTimerExpiry 40) (withPoints
      [(40, { good 997 with hold := .running 640000 })] hanging)
    s.arbiter = [.holdExpiry 40 640000] ∧ s.points[40].hold.isRunning = true ∧
      shown s 40 = (997, .good, false) := by decide +kernel

/-- Section 1.9, first order: the expiry granted. -/
theorem test_hold_expiry_update :
    let s := after .holdExpiryUpdate (granting (.holdExpiry 40 640000) (withPoints
      [(40, { good 997 with hold := .expired 640000 })] hanging))
    shown s 40 = (997, .stale, false) ∧ s.points[40].hold = .stopped ∧ s.flag .pointStale = true := by
  decide +kernel

/-- Section 1.9, second order: the timer has been restarted, and the request is discarded. -/
theorem test_hold_expiry_discarded :
    let s := after .holdExpiryUpdate (granting (.holdExpiry 40 640000) (withPoints
      [(40, { good 1012 with hold := .running 1280000 })] hanging))
    shown s 40 = (1012, .good, false) ∧ s.points[40].hold = .running 1280000 ∧
      s.flag .pointStale = false ∧ s.arbiter = [] := by decide +kernel

/-- Section 1.9: FORCE 41 to 0. -/
theorem test_force :
    let s := after (.force 0 41 0) (waitingFor (.force 41 0) hanging)
    shown s 41 = (0, .forced, false) ∧ s.points[41].withheld = .absent ∧ s.forced = [41] ∧
      answer s = [7, 0] := by decide +kernel

/-- Point 41 forced to 0 with a withheld intake. -/
def forced41 (w : Withheld) : State :=
  withPoints [(41, { quality := .forced, withheld := w })] { hanging with forced := [41] }

/-- Section 1.9: RELEASE 41 with 12176 AGED under HOLD. -/
theorem test_release_aged :
    let s := after (.release 0 41)
      (waitingFor (.release 41) (forced41 (.aged (.word 12176))))
    shown s 41 = (1012, .stale, false) ∧ s.points[41].withheld = .absent ∧ s.forced = [] := by
  decide +kernel

/-- Section 1.9: with no reply taken during the force, RELEASE leaves UNSET with value 0. -/
theorem test_release_absent :
    shown (after (.release 0 41) (waitingFor (.release 41) (forced41 .absent))) 41 =
      (0, .unset, false) := by decide +kernel

theorem test_release_all :
    let s := after (.releaseAll 0)
      (waitingFor .releaseAll (forced41 (.fresh (.word 12176))))
    shown s 41 = (1012, .good, false) ∧ s.forced = [] ∧ answer s = [9, 0] := by decide +kernel

/-- Section 3.9, update 4: the last corner comes in and every entry is computed. -/
theorem test_derived_in_one_update :
    let s := after .replyIntakeUpdate (granting (.replyIntake 4 [33, 0, 0, 51, 202, 0, 0] true)
      (withPoints [(43, {}), (100, {}), (101, {}), (102, {}),
        (103, { value := 1, quality := .substituted }), (104, { value := 1, quality := .substituted }),
        (105, { value := 1, quality := .substituted })] { hanging with trips := Vector.replicate 32 true }))
    [43, 100, 101, 102, 103, 104, 105].map (shown s) =
      [(1105, .good, false), (4244, .good, false), (-226, .good, false), (-53, .good, false),
        (0, .good, false), (0, .good, false), (0, .good, false)] := by decide +kernel

/-! ## Interlocks and OUT points (chapter 4) -/

/-- Section 4.9, step 1: the early press sets the latch, and point 210 stays blocked. -/
theorem test_rearm_early_press :
    let s := after .replyIntakeUpdate (granting (.replyIntake 8 [50, 16] false) hanging)
    shown s 200 = (1, .good, false) ∧ shown s 210 = (0, .substituted, true) ∧
      s.interlocks[12].effective = false := by decide +kernel

/-- Section 4.9, step 2: term 1's hold expiry is requested at 1430 ms. -/
theorem test_term_hold_expiry :
    (after (.termHoldExpiry 12 0) { landed with
      interlocks := landed.interlocks.set 12
        { terms := #v[⟨.timing, .running 900⟩, heldTerm, heldTerm, {}] } }).arbiter =
      [.termHold 12 0 900] := by decide +kernel

/-- R69: of two hold timers that run out at one instant, entry 12's request stands before entry 20's,
whichever row comes first. -/
theorem test_term_holds_together :
    let timing : InterlockRt := { terms := #v[⟨.timing, .running 900⟩, {}, {}, {}] }
    let s := { landed with interlocks := (landed.interlocks.set 12 timing).set 20 timing }
    (after (.termHoldExpiry 12 0) (after (.termHoldExpiry 20 0) s)).arbiter =
      [.termHold 12 0 900, .termHold 20 0 900] := by decide +kernel

/-- Section 4.9, step 2: every term HELD, the permit true, the latched point still blocked. -/
theorem test_term_hold_update :
    let s := after .termHoldUpdate (granting (.termHold 12 0 900) (withPoints
      [(200, good 1), (210, { quality := .substituted, latch := true })] { landed with
        interlocks := landed.interlocks.set 12
          { terms := #v[⟨.timing, .expired 900⟩, heldTerm, heldTerm, {}] } }))
    s.interlocks[12].permit = true ∧ s.interlocks[12].effective = true ∧
      shown s 210 = (0, .substituted, true) := by decide +kernel

/-- Section 4.9, step 3: the operator lets go; the latch clears and the point passes. -/
theorem test_rearm_let_go :
    let s := after .replyIntakeUpdate (granting (.replyIntake 8 [50, 0] false)
      (withPoints [(200, good 1), (210, { quality := .substituted, latch := true })] landed))
    shown s 210 = (0, .good, false) := by decide +kernel

/-- Section 4.9, step 5: a corner lifts with the button pressed. -/
theorem test_rearm_corner_lifts :
    let s := after .replyIntakeUpdate (granting (.replyIntake 3 [33, 0, 0, 52, 237, 0, 0] false)
      (withPoints [(200, good 1), (210, good 1)] landed))
    shown s 106 = (3, .good, false) ∧ s.interlocks[12].permit = false ∧
      shown s 210 = (0, .substituted, true) := by decide +kernel

/-- Section 4.10: BYPASS 20 for 30 s. -/
theorem test_bypass :
    let s := after (.bypass 0 20 30) (waitingFor (.bypass 20 30) landed)
    s.bypasses = [⟨20, .running (30 * 16000000)⟩] ∧ s.interlocks[20].effective = true ∧
      s.interlocks[20].permit = false ∧ shown s 212 = (0, .good, false) ∧ answer s = [10, 0] := by
  decide +kernel

/-- The button held under the bypass of section 4.10. -/
def bypassed : State :=
  withPoints [(202, good 1), (212, good 1)] { landed with
    bypasses := [⟨20, .running 900⟩]
    interlocks := landed.interlocks.set 20 { effective := true } }

/-- Section 4.10: the bypass timer runs out. -/
theorem test_bypass_timer_expiry :
    (after (.bypassTimerExpiry 20) bypassed).arbiter = [.bypassExpiry 20 900] := by decide +kernel

theorem test_bypass_expiry_update :
    let s := after .bypassExpiryUpdate
      (granting (.bypassExpiry 20 900) { bypassed with bypasses := [⟨20, .expired 900⟩] })
    s.bypasses = [] ∧ s.interlocks[20].effective = false ∧ shown s 212 = (0, .substituted, true) ∧
      s.flag .bypassEnded = true := by decide +kernel

/-- Section 4.10: CANCEL BYPASS latches in the same way and sets no flag. -/
theorem test_cancel_bypass :
    let s := after (.cancelBypass 0 20) (waitingFor (.cancelBypass 20) bypassed)
    s.bypasses = [] ∧ shown s 212 = (0, .substituted, true) ∧ s.flag .bypassEnded = false := by
  decide +kernel

/-- Section 4.10: a BYPASS of entry 12 is NOT_ALLOWED. -/
theorem test_bypass_not_allowed :
    answer (after (.bypass 0 12 30) (waitingFor (.bypass 12 30) landed)) = [10, 8] := by
  decide +kernel

/-! ## The poll cycle (chapter 7) -/

/-- Section 7.11: hold gaps of {0, 1}, {0} and {0, 2} under P = 4, and of {0, 2} under P = 8. -/
theorem test_hold_gaps :
    [holdGap 3 4, holdGap 1 4, holdGap 5 4, holdGap 5 8] = [3, 4, 2, 6] := by decide +kernel

/-- The flipper node of section 7.11: P = 4, entry 6 with mask {0, 1}, points 60 and 61. -/
def flipper (period : Nat) : Tables where
  points := pointsAt [(60, inputBit 6 0), (61, { loadPin 6 with holdLimit := 60 })].reverse |>.set 60
    { inputBit 6 0 with holdLimit := 40 }
  nodes := (Vector.replicate 16 {}).set 6 { corner 16 with pollMask := 3 }
  global := { patternPeriod := 4, cyclePeriod := period }

/-- Section 7.11: mask {0} leaves point 60 short, and mask {4} leaves the node without a slot. -/
theorem test_set_mask_refused :
    let s : State := { State.reset with mode := .run, tables := flipper 100 }
    answer (after (.setMask 0 6 1) s) = [12, 6, 1, 0, 60, 5] ∧
      (after (.setMask 0 6 1) s).flag .checkRefused = true ∧
      answer (after (.setMask 0 6 16) s) = [12, 6, 2, 0, 6, 8] := by decide +kernel

/-- Section 7.11: mask {0, 2} is accepted. -/
theorem test_set_mask_done :
    let s := after (.setMask 0 6 5) { State.reset with mode := .run, tables := flipper 100 }
    answer s = [12, 0] ∧ s.tables.nodes[6].pollMask = 5 := by decide +kernel

/-- The segment of section 7.12: nodes 0 to 4, P = 2, 4.0 ms. -/
def slots : State :=
  let node (mask : Word16) (a : Addr) : NodeCfg := { corner a with pollMask := mask, inputWords := 0 }
  { State.reset with
    mode := .run
    tables := { State.reset.tables with
      nodes := (((((Vector.replicate 16 {}).set 0 (node 3 10)).set 1 (node 1 11)).set 2
        (node 1 12)).set 3 (node 2 13)).set 4 (node 2 14)
      global := { patternPeriod := 2, cyclePeriod := 40, spreaderTurnaround := 50 } }
    nodes := (Vector.replicate 16 online) }

/-- Section 7.12 at 4.00: the forward in flight overruns, and the list of slot 1 waits. -/
theorem test_cycle_start_overrun :
    let s := after .cycleStart { slots with
      cycleTimer := .running 64000
      segs := ⟨{ work := .forward, forwardSent := true, pollList := [0, 1, 2], next := 3 }, { work := .gap }⟩ }
    s.slot = 1 ∧ s.segs.spreader.pollList = [0, 3, 4] ∧ s.segs.spreader.work = .forward ∧
      s.segs.spreader.overruns = 1 ∧ s.segs.spreader.forwardSent = false ∧
      s.flag .cycleOverrun = true ∧ s.cycleTimer = .running 128000 := by decide +kernel

/-- Section 7.12 at 8.00: the exchange in flight overruns, and node 4 is skipped. -/
theorem test_cycle_start_skips :
    let s := after .cycleStart { slots with
      cycleTimer := .running 128000, slot := 1
      segs := ⟨{ work := .exchange 3 true, pollList := [0, 3, 4], next := 2 }, { work := .gap }⟩ }
    s.slot = 0 ∧ s.segs.spreader.pollList = [0, 1, 2] ∧ s.segs.spreader.work = .exchange 3 true ∧
      s.nodes[4].counters.toList = [0, 0, 0, 0, 0, 0, 0, 1] ∧ s.nodes[4].lastSeq = 3 := by
  decide +kernel

/-- Section 7.12 at 1.25: the turnaround ends and node 1 is polled. -/
theorem test_turnaround_expiry_polls :
    let s := after (.turnaroundExpiry .spreader) { slots with
      segs := ⟨{ work := .turnaround, turnaround := .running 20000, pollList := [0, 1, 2], next := 1 }, {}⟩ }
    s.segs.spreader.work = .exchange 1 true ∧ s.segs.spreader.next = 2 ∧ s.nodes[1].lastSeq = 0 ∧
      s.ports.spreader.awaited = .reply 11 := by decide +kernel

/-- Section 7.12 at 3.45: the list is finished, and the forward is begun. -/
theorem test_turnaround_expiry_forwards :
    let s := after (.turnaroundExpiry .spreader) { slots with
      segs := ⟨{ work := .turnaround, turnaround := .running 55200, pollList := [0, 1, 2], next := 3
                 queue := [⟨7, 13, true, [1]⟩] }, {}⟩ }
    s.segs.spreader.work = .forward ∧ s.segs.spreader.queue = [] ∧
      s.ports.spreader.sending.map (fun o => o.telegram) = some ⟨13, 62, .forward, 3, [1]⟩ ∧
      s.ports.spreader.awaited = .forwardAnswer := by decide +kernel

/-! ## Forwards (section 8.7) -/

/-- Node 2 is LOST, the tag counter stands at 20, the segments are between cycles' gaps. -/
def forwarding : State :=
  { hanging with
    nodes := hanging.nodes.set 2 { link := .lost }, tag := 20
    segs := ⟨{ work := .done }, { work := .done }⟩ }

theorem test_forward_taken :
    let s := after (.forward 0 13 [1, 2]) forwarding
    answer s = [0, 20] ∧ s.tag = 21 ∧ s.segs.spreader.queue = [⟨20, 13, true, [1, 2]⟩] := by
  decide +kernel

theorem test_forward_refused :
    answer (after (.forward 0 62 []) forwarding) = [2] ∧
      answer (after (.forward 0 12 []) forwarding) = [4] := by decide +kernel

/-- The cab's answer window runs out with nothing in progress: NO_ANSWER. -/
theorem test_answer_window_expiry :
    let s := after (.answerWindowExpiry .cab) { forwarding with
      returns := [⟨20, .answered 13 [1, 2, 3, 4, 5, 6]⟩]
      segs := ⟨{}, { work := .forward, inFlight := some ⟨21, 41, true, []⟩, answerWindow := .running 9 }⟩ }
    s.returns.map ReturnRecord.tag = [20, 21] ∧
      s.returns[1]?.map ReturnRecord.outcome = some .noAnswer ∧ s.segs.cab.work = .turnaround := by
  decide +kernel

/-- The forward to 63 ends SENT at the end of its transmission. -/
theorem test_end_of_transmission_of_forward :
    let s := after (.endOfTransmission .spreader) { forwarding with
      segs := ⟨{ work := .forward, inFlight := some ⟨22, 63, false, []⟩ }, {}⟩
      ports := { State.reset.ports with
        spreader := { rxOpen := false, sending := some ⟨⟨63, 62, .forward, 2, []⟩, .forward false⟩ } } }
    s.returns = [⟨22, .sent⟩] ∧ s.segs.spreader.inFlight = none := by decide +kernel

/-- The four records of section 8.7 before the STOP. -/
def fullQueue : List ReturnRecord :=
  [⟨21, .noAnswer⟩, ⟨22, .sent⟩, ⟨23, .garbled⟩, ⟨24, .answered 13 [1, 2, 3, 4]⟩]

/-- STOP: the forward in flight and the queued one join as DROPPED, and 21 and 22 are discarded. -/
theorem test_stop_drops_forwards :
    let s := after (.stop 0) (waitingFor .stop { forwarding with
      returns := fullQueue, tag := 27
      segs := ⟨{ work := .forward, inFlight := some ⟨25, 13, true, []⟩, queue := [⟨26, 13, true, []⟩] }, {}⟩ })
    s.returns = [⟨23, .garbled⟩, ⟨24, .answered 13 [1, 2, 3, 4]⟩, ⟨25, .dropped⟩, ⟨26, .dropped⟩] ∧
      s.flag .returnOverwritten = true ∧ s.tag = 27 ∧ s.mode = .config ∧ answer s = [5, 0] := by
  decide +kernel

theorem test_fetch :
    let s := after (.fetch 0 []) { State.reset with returns := fullQueue.drop 3 }
    answer s = [1, 24, 13, 1, 2, 3, 4] ∧ s.returns = [] ∧
      answer (after (.fetch 0 []) State.reset) = [0] := by decide +kernel

/-- R83: a FETCH that comes while the Drive Port sends is lost, and the record stays. -/
theorem test_fetch_lost_while_sending :
    let s := after (.readEntry 0 11 0) { State.reset with returns := fullQueue }
    s.ports.drive.rxOpen = false ∧ (after (.fetch 0 []) s).returns = fullQueue ∧
      answer (after (.fetch 0 []) s) = answer s := by decide +kernel

/-! ## Local lines (section 9.8 and chapter 9) -/

/-- Local output 3 in its low phase, two pulses to come, at an instant in ms. -/
def horn (now : Nat) (train : Train) (last : Word32) : State :=
  { hanging with
    now := now * 16000
    outputs := hanging.outputs.set 3
      { active := match train with | .running true _ _ => true | _ => false, train, last } }

/-- At 0: the EXCHANGE granted hands 3 to the horn. -/
theorem test_exchange_update_starts_train :
    let s := after .exchangeUpdate { horn 0 .idle 0 with
      arbiter := [.exchange [0, 3]]
      service := some ⟨⟨.exchange, 62, 1, [0, 0, 0, 3]⟩, .requested⟩ }
    s.outputs[3] = { active := true, last := 3, train := .running true (.running (500 * 16000)) (.count 3) } ∧
      shown s 220 = (3, .good, false) ∧ s.silenceTimer = .running (200 * 16000) := by decide +kernel

/-- At 500, 1500 and 3880: the phase timer. -/
theorem test_phase_timer_expiry :
    (after (.phaseTimerExpiry 3) (horn 500 (.running true (.running 8000000) (.count 3)) 3)).outputs[3] =
        { last := 3, train := .running false (.running (1000 * 16000)) (.count 3) } ∧
      (after (.phaseTimerExpiry 3) (horn 1000 (.running false (.running 16000000) (.count 3)) 3)).outputs[3] =
        { active := true, last := 3, train := .running true (.running (1500 * 16000)) (.count 2) } ∧
      (after (.phaseTimerExpiry 3) (horn 3880 (.running false (.running 62080000) (.count 1)) 5)).outputs[3] =
        { last := 5 } := by decide +kernel

/-- At 1550: the line goes to 1 and the debounce timer starts. At 2420: a bounce cancels it. -/
theorem test_input_level_change :
    (after (.inputLevelChange 5 true (1550 * 16000)) (horn 1500 .idle 3)).inputs[5].pin =
        ⟨true, false, .running (1600 * 16000)⟩ ∧
      (after (.inputLevelChange 5 true (2420 * 16000)) { horn 2400 .idle 3 with
        inputs := hanging.inputs.set 5 ⟨⟨false, true, .running (2450 * 16000)⟩, 1⟩ }).inputs[5].pin =
        ⟨true, true, .stopped⟩ := by decide +kernel

/-- At 1600: 1 is accepted, and the train pauses with 400 ms of its low phase left. -/
theorem test_input_debounce_expiry :
    let s := after (.inputDebounceExpiry 5)
      { horn 1550 (.running false (.running (2000 * 16000)) (.count 2)) 3 with
        inputs := hanging.inputs.set 5 ⟨⟨true, false, .running (1600 * 16000)⟩, 0⟩ }
    s.inputs[5] = ⟨⟨true, true, .stopped⟩, 1⟩ ∧ s.arbiter = [.lineLevel 5 true (1600 * 16000)] ∧
      s.outputs[3].train = .paused false (400 * 16000) (.count 2) := by decide +kernel

/-- R151: inputs 5 and 3 accept at one instant, and 3 stands before 5. -/
theorem test_levels_together :
    let pin : InputRt := ⟨⟨true, false, .running 9⟩, 0⟩
    let s := { hanging with inputs := (hanging.inputs.set 5 pin).set 3 pin }
    (after (.inputDebounceExpiry 3) (after (.inputDebounceExpiry 5) s)).arbiter =
      [.lineLevel 3 true 9, .lineLevel 5 true 9] := by decide +kernel

theorem test_line_level_update :
    shown (after .lineLevelUpdate (granting (.lineLevel 5 true 9) hanging)) 112 = (1, .good, false) := by
  decide +kernel

/-- At 1800: a change of value while the train is PAUSED is ignored and counted. -/
theorem test_exchange_update_train_ignored :
    let s := after .exchangeUpdate { withPoints [(111, good 3), (220, good 3)]
        (horn 1800 (.paused false 6400000 (.count 2)) 3) with
      arbiter := [.exchange [0, 5]]
      service := some ⟨⟨.exchange, 62, 1, [0, 0, 0, 5]⟩, .requested⟩ }
    s.outputs[3] = { last := 5, ignored := 1, train := .paused false 6400000 (.count 2) } ∧
      s.flag .trainIgnored = true := by decide +kernel

/-- R155: the step index goes from the last step to 0, and drives a PATTERN output by its mask. -/
theorem test_lamp_step_expiry :
    let s := after .lampStepExpiry { State.reset with
      lampTimer := .running 8000000, lampIndex := 3
      tables := { State.reset.tables with
        outputs := (Vector.replicate 8 {}).set 0 { mode := .pattern, stepMask := 1 } }
      outputs := (Vector.replicate 8 {}).set 0 { last := 1 } }
    s.lampIndex = 0 ∧ s.outputs[0].active = true ∧ s.lampTimer = .running 12000000 := by
  decide +kernel

/-- R156: a value of 255 is active for 9.9609375 ms, 159375 sixteenths of a microsecond. -/
theorem test_period_start :
    (after (.periodStart 2) { State.reset with
      outputs := (Vector.replicate 8 {}).set 2 { last := 255, period := .running 160000 } }).outputs[2] =
      { active := true, last := 255, period := .running 320000, onTimer := .running (160000 + 159375) } := by
  decide +kernel

theorem test_on_timer_expiry :
    (after (.onTimerExpiry 2) { State.reset with
      outputs := (Vector.replicate 8 {}).set 2
        { active := true, last := 255, onTimer := .running 9 } }).outputs[2] = { last := 255 } := by
  decide +kernel

/-! ## Capture channels (chapter 10) -/

/-- Channel 0 of section 10.10 with its accepted A and B, its position and homed. -/
def encoder (a b : Bool) (position : Int) (homed : Bool) : State :=
  { hanging with
    channels := hanging.channels.set 0
      { a := ⟨a, a, .stopped⟩, b := ⟨b, b, .stopped⟩, lastPair := (a, b), position, homed } }

/-- A rises: the debounce of 2 µs starts. -/
theorem test_capture_level_change :
    (after (.captureLevelChange 0 [(.a, true)] 160) (encoder false false 1000 false)).channels[0].a =
      ⟨true, false, .running 192⟩ := by decide +kernel

/-- Section 10.10: an accepted rise of B steps forward; both tracks at once are illegal. -/
theorem test_capture_debounce_expiry :
    let rise (inputs : List CapInput) (s : State) : State :=
      after (.captureDebounceExpiry 0 inputs) { s with
        channels := s.channels.set 0 { s.channels[0] with
          a := if inputs.contains .a then ⟨true, false, .running 9⟩ else s.channels[0].a
          b := if inputs.contains .b then ⟨true, false, .running 9⟩ else s.channels[0].b } }
    (rise [.b] (encoder true false 1001 false)).channels[0].position = 1002 ∧
      (rise [.a, .b] (encoder false false 1001 true)).channels[0].position = 1001 ∧
      (rise [.a, .b] (encoder false false 1001 true)).channels[0].errors = 1 ∧
      (rise [.a, .b] (encoder false false 1001 true)).flag .channelEvent = true := by decide +kernel

/-- Section 10.10: the first index mark homes the channel, the second does nothing. -/
theorem test_index_homes :
    let rt := (encoder false true 1003 false).channels[(0 : ChannelNo)]
    (indexEdge crane.channels[(0 : ChannelNo)] rt).1 = { rt with position := 1000, homed := true } ∧
      indexEdge crane.channels[(0 : ChannelNo)] { rt with homed := true } =
        ({ rt with homed := true }, false) := by decide +kernel

/-- The table of R165. -/
theorem test_count_ceiling :
    let edge (limit : Nat) (count : Int) (reached : Bool) : Int × Bool × Bool :=
      let (r, event) := countEdge { mode := .count, limit } { count, reached }
      (r.count, r.reached, event)
    [edge 500 498 false, edge 500 499 false, edge 500 500 true, edge 0 2147483646 false,
      edge 0 2147483647 false] =
      [(499, false, false), (500, true, true), (500, true, false), (2147483647, false, false),
        (2147483647, false, false)] := by decide +kernel

/-- The table of R166: the edge at 900,000 µs measures 500,000 µs, and the timeout clears it. -/
theorem test_channel_timeout_expiry :
    let s := { hanging with
      channels := hanging.channels.set 2
        { periodEdge (900000 * 16) crane.channels[(2 : ChannelNo)]
            { stage := .timing (400000 * 16), timed := 400000 } with b := {} } }
    s.channels[2].timed = 500000 ∧ s.channels[2].timeout = .running (1900000 * 16) ∧
      (after (.channelTimeoutExpiry 2) s).channels[2] = {} := by decide +kernel

/-- Section 10.10: the sample and its grant. -/
theorem test_sample_timer_expiry :
    let s := encoder false true 1003 false
    (after (.sampleTimerExpiry 0) { s with
      channels := s.channels.set 0 { s.channels[0] with sample := .running 160000 } }).arbiter =
      [.sample 0 1003 160000] := by decide +kernel

/-- R164: channels 2 and 0 sample at one instant, and 0 stands before 2; a later one joins the end. -/
theorem test_samples_together :
    let r : ChannelRt := { sample := .running 9 }
    let s := { hanging with channels := #v[r, { sample := .running 10 }, r, {}] }
    ((after (.sampleTimerExpiry 0) (after (.sampleTimerExpiry 1) (after (.sampleTimerExpiry 2) s))).arbiter.map
      Request.instant?) = [some 9, some 9, some 10] := by decide +kernel

theorem test_sample_update :
    shown (after .sampleUpdate (granting (.sample 0 1003 9) hanging)) 130 = (1003, .good, false) := by
  decide +kernel

/-! ## The drive segment (chapter 11) -/

/-- Section 11.7: with 12.0 ms the START is refused by check 5 on point 60. -/
theorem test_start_refused :
    let s := after (.start 0) (waitingFor .start { State.reset with tables := flipper 120 })
    answer s = [4, 6, 1, 0, 60, 5] ∧ s.mode = .config ∧ s.flag .checkRefused = true := by
  decide +kernel

/-- Section 11.7: with point 60 at 50 ms the START is DONE. -/
theorem test_start_done :
    let tables := { flipper 120 with points := (flipper 120).points.set 60 (inputBit 6 0) }
    let s := after (.start 0) (waitingFor .start { State.reset with tables })
    answer s = [4, 0] ∧ s.mode = .starting ∧ s.startTimer = .running (10 * 16000000) ∧
      s.silenceTimer = .running (200 * 16000) ∧ s.nodes[6].link = .silent := by decide +kernel

theorem test_start_timer_expiry :
    (after .startTimerExpiry { hanging with mode := .starting, startTimer := .running 9 }).arbiter =
      [.startTimer 9] := by decide +kernel

/-- Section 11.7: the start timer's grant; node 5 never answered. -/
theorem test_entry_to_run :
    let s := after .entryToRun (granting (.startTimer 9)
      { hanging with mode := .starting, nodes := hanging.nodes.set 5 { link := .silent } })
    s.mode = .run ∧ s.nodes[5].link = .lost ∧ s.flag .nodeLost = true ∧
      s.flag .startIncomplete = true ∧ notOnline s = 1 := by decide +kernel

/-- R172: an EXCHANGE of the write list's length is taken; another is answered at once. -/
theorem test_exchange :
    (after (.exchange 1 [0, 1, 0, 3]) hanging).arbiter = [.exchange [1, 3]] ∧
      answer (after (.exchange 1 [0, 1]) hanging) =
        [2, 0, 0, 0, 4, 0, 0, 0, 0, 1, 0, 0, 0, 0] := by decide +kernel

/-- R176: the GLOBAL entry after power-on (R177). -/
theorem test_read_entry :
    answer (after (.readEntry 0 11 0) State.reset) =
      [1, 0, 11, 0, 0, 0, 100, 1, 0, 50, 0, 50, 20, 20, 10, 0, 200, 25, 4, 1] ∧
      answer (after (.readEntry 0 12 0) State.reset) = [1, 2] ∧
      answer (after (.readEntry 0 11 1) State.reset) = [1, 3] := by decide +kernel

/-- R176: an entry written, and one refused for its first field out of range (R102: P is 1 to 16). -/
theorem test_write_entry :
    let image : List Octet := [0, 40, 2, 0, 50, 0, 50, 20, 20, 10, 0, 200, 25, 4, 7]
    let s := after (.writeEntry 0 11 0 image) State.reset
    answer s = [2, 0] ∧ s.tables.image 11 0 = some image ∧
      answer (after (.writeEntry 0 11 0 (image.set 2 17)) State.reset) = [2, 4, 2] := by decide +kernel

theorem test_clear_table :
    let s := after (.clearTable 0 11) { State.reset with tables := flipper 120 }
    answer s = [3, 0] ∧ s.tables.global = {} ∧ s.tables.nodes[6].enabled = true := by decide +kernel

/-- R183: RESTART in RUN keeps the tables and the tag, empties the arbiter's list and answers DONE. -/
theorem test_restart :
    let s := after (.restart 2) (granting (.driveSilence 9) forwarding)
    answer s = [6, 0] ∧ s.mode = .config ∧ s.arbiter = [] ∧ s.tag = 20 ∧
      s.tables.global = crane.global ∧ shown s 40 = (0, .unset, false) ∧
      s.ports.spreader.sending = some safeTelegram := by decide +kernel

/-- R184: bits 12 to 15 are not read. -/
theorem test_attention_commands :
    (after (.setAttentionMask 0 0xF801) State.reset).mask = 0x801 ∧
      (after (.clearAttention 0 0xF800) { State.reset with attention := 0x804 }).attention = 4 := by
  decide +kernel

/-- R185: part 5 is BAD_FIELD, operand 1; part 0 begins with the mode, the flags and the mask. -/
theorem test_read_status :
    answer (after (.readStatus 0 5) State.reset) = [15, 4, 1] ∧
      (answer (after (.readStatus 0 0) { State.reset with attention := 0x804 })).take 8 =
        [15, 0, 0, 0, 8, 4, 15, 255] := by decide +kernel

/-- R117: POLLS SENT of the exchange in flight becomes 1, every other counter 0. -/
theorem test_reset_counters :
    let s := after (.resetCounters 0) { polling with
      nodes := polling.nodes.set 3 { polling.nodes[3] with counters := Vector.replicate 8 9 } }
    s.nodes[3].counters.toList = [1, 0, 0, 0, 0, 0, 0, 0] := by decide +kernel

/-- R174: the silence timer's expiry and its grant. -/
theorem test_drive_silence_expiry :
    (after .driveSilenceExpiry hanging).arbiter = [.driveSilence 3200000] := by decide +kernel

theorem test_drive_silence_update :
    let s := after .driveSilenceUpdate (granting (.driveSilence 9) hanging)
    shown s 110 = (0, .stale, false) ∧ s.plcSilent = true ∧ s.flag .plcSilent = true := by
  decide +kernel

/-- R183: while the reset line is held the part takes nothing; then it stands in CONFIG. -/
theorem test_reset_line :
    let s := after .resetLine polling
    (s.mode, s.resetHeld, s.tables.global.silenceLimit, s.ports.spreader.awaited) =
        (.config, true, 200, .nothing) ∧
      (after (.readEntry 0 11 0) s).ports.drive.sending = none ∧
      answer (after (.readEntry 0 10 4) (after .resetLineRelease s)) = [1, 3] := by decide +kernel

/-- R84, R183: without supply nothing is sent or taken; power-on comes up in CONFIG. -/
theorem test_power :
    let s := after .powerLoss polling
    s.powered = false ∧ (after (.fetch 0 []) s).ports.drive.sending = none ∧
      answer (after (.fetch 0 []) (after .powerOn s)) = [0] := by decide +kernel

/-- A step takes the command at the front of the queue and leaves the rest; an empty queue idles. -/
theorem test_step :
    step { State.reset with pending := [.clearAttention 0 0, .stop 1] } =
        exec (.clearAttention 0 0) { State.reset with pending := [.stop 1] } ∧
      step State.reset = .next State.reset := ⟨rfl, rfl⟩

/-- No row of the table gives bits, so no word spells a command. -/
theorem test_no_word_spells :
    decodeTableWord 0 0 = none ∧ State.reset.withFetchWord 8 255 = State.reset := ⟨rfl, rfl⟩

/-! ## States that meet the hypotheses of the statements -/

theorem reset_canServe : State.reset.canServe := ⟨rfl, rfl, rfl, rfl, rfl, rfl⟩
theorem hanging_canServe : hanging.canServe := ⟨rfl, rfl, rfl, rfl, rfl, rfl⟩
theorem landed_canServe : landed.canServe := ⟨rfl, rfl, rfl, rfl, rfl, rfl⟩
theorem forwarding_canServe : forwarding.canServe := ⟨rfl, rfl, rfl, rfl, rfl, rfl⟩

theorem crane_resultsBound : crane.resultsBound := by unfold Tables.resultsBound; decide +kernel

/-- A state that can serve stands at the grant of the update that waits in it. -/
theorem waitingFor_atGrant {s : State} (h : s.canServe) (c : Command) :
    (waitingFor c s).atGrantOf (manageTelegram 0 c) (.manage c) [] :=
  ⟨h.1, rfl, h.2.2.1, h.2.2.2.1, h.2.2.2.2.1, rfl⟩

/-- In RUN a request at the head of the list is granted. -/
theorem granting_grants (r : Request) : (granting r hanging).grants r [] :=
  ⟨rfl, nofun, rfl⟩

theorem passes_of_guard {s : State} {p : PointNo} {e : InterlockNo} (hm : s.mode = .run)
    (hq : s.points[s.tables.points[p].refB].quality ≠ .unset)
    (hg : s.tables.points[p].guard = some e) (he : s.interlocks[e].effective = true)
    (hl : s.points[p].latch = false) : s.passes p := by
  refine ⟨hm, hq, ?_⟩
  simp only [hg]
  exact ⟨he, fun _ => hl⟩

theorem passes_unguarded {s : State} {p : PointNo} (hm : s.mode = .run)
    (hq : s.points[s.tables.points[p].refB].quality ≠ .unset)
    (hg : s.tables.points[p].guard = none) : s.passes p := by
  refine ⟨hm, hq, ?_⟩
  simp only [hg]

theorem not_passes_of_guard {s : State} {p : PointNo} {e : InterlockNo}
    (hg : s.tables.points[p].guard = some e) (he : s.interlocks[e].effective = false) :
    ¬ s.passes p := by
  rintro ⟨-, -, h⟩
  simp only [hg] at h
  exact absurd (he.symm.trans h.1) (by decide)

/-- The OUT points of the worked cases. -/
theorem crane_outs (p : PointNo) : crane.points[p].source = .feed → p = 210 ∨ p = 212 ∨ p = 220 := by
  intro h
  have hall : indicesOf (fun c : PointCfg => decide (c.source = .feed)) crane.points = [210, 212, 220] := by
    decide +kernel
  simpa [hall] using (mem_indicesOf (fun c : PointCfg => decide (c.source = .feed)) crane.points p).2
    (decide_eq_true h)

/-- The points whose hold timer does not stand still are NODE points, given by the list of them. -/
theorem sourcesKept_of {s : State} (holding : List PointNo)
    (hl : indicesOf (fun r : PointRt => decide (r.hold ≠ .stopped)) s.points = holding)
    (hs : ∀ p ∈ holding, s.tables.source p = .node)
    (hf : ∀ p ∈ s.forced, s.tables.source p ≠ .unused ∧ s.tables.source p ≠ .feed) :
    sourcesKept s :=
  ⟨fun p h => hs p (hl ▸ (mem_indicesOf _ _ p).2 (decide_eq_true h)), hf⟩

theorem witness_StepRunsFrontCommand :
    (ran .powerOn hanging).pending = [.powerOn] ∧ hanging.pending = [] := ⟨rfl, rfl⟩

/-- Without supply, and held in reset, a part is not alive; levels of one pin and of three. -/
theorem witness_ResetsAndSupply :
    { hanging with powered := false }.alive = false ∧ { hanging with resetHeld := true }.alive = false ∧
      (Instr.captureLevelChange 3 [(.b, true)] 9).wellFormed = true ∧
      (Instr.captureLevelChange 0 [(.z, true), (.a, true), (.b, false)] 9).wellFormed = true :=
  ⟨rfl, rfl, rfl, rfl⟩

/-- A RUN state with one point forced, one entry bypassed and full queues, about to step. -/
theorem witness_CountsStayBounded :
    let f : Forward := ⟨1, 13, true, []⟩
    let s := ran .cycleStart { landed with
      forced := [41], bypasses := [⟨20, .running 9⟩], returns := fullQueue
      segs := ⟨{ landed.segs.spreader with queue := [f, f, f, f] }, landed.segs.cab⟩ }
    (∃ t, step s = .next t) ∧ listsBounded s ∧ countersInRange s ∧ receiversClosed s := by
  refine ⟨⟨_, rfl⟩, ⟨by decide +kernel, by decide +kernel, by decide +kernel, by decide +kernel, ?_,
    by decide +kernel, ?_⟩, by unfold countersInRange; decide +kernel, ?_⟩
  · rintro (_ | _) <;> decide +kernel
  · rintro (_ | _ | _) <;> decide +kernel
  · rintro (_ | _ | _) <;> decide +kernel

/-- The spreader port sends, its receiver closed, while the end of a line event reaches it. -/
theorem witness_CountsStayBounded_closed :
    let s := ran (.openingFence .spreader)
      (updPort .spreader (fun r => { r with rxOpen := false, sending := some safeTelegram }) hanging)
    (s.ports.get .spreader).rxOpen = false ∧ receiversClosed s ∧ ∃ t, step s = .next t := by
  refine ⟨rfl, ?_, ⟨_, rfl⟩⟩
  rintro (_ | _ | _) <;> decide +kernel

/-- A node one miss from its loss, at the reply window's end. -/
theorem witness_CountsStayBounded_misses :
    let s := ran (.replyWindowExpiry .spreader)
      { polling with nodes := hanging.nodes.set 3 { link := .suspect, misses := 2 } }
    missesBounded s ∧ ∃ t, step s = .next t := by
  refine ⟨?_, ⟨_, rfl⟩⟩
  unfold missesBounded
  decide +kernel

/-- A part in CONFIG with its tables written, which still sends a SAFE. -/
theorem witness_ConfigStaysQuiet :
    let s := ran (.endOfTransmission .spreader) { State.reset with
      tables := crane
      ports := { State.reset.ports with spreader := { rxOpen := false, sending := some safeTelegram } } }
    countersInRange s ∧ quietInConfig s ∧ s.mode = .config ∧ ∃ t, step s = .next t := by
  refine ⟨?_, fun _ => ⟨rfl, rfl, ?_, rfl, ?_, ?_, ?_, ?_, rfl, rfl, rfl, rfl⟩, rfl, ⟨_, rfl⟩⟩
  · unfold countersInRange
    decide +kernel
  · intro p
    simp [ran, State.reset]
  · decide +kernel
  · rintro (_ | _)
    · refine ⟨⟨rfl, rfl, rfl, rfl, rfl, rfl, rfl, rfl, rfl, rfl, rfl, fun o h => nomatch h⟩, rfl, ?_⟩
      rintro o ⟨⟩
      decide +kernel
    · exact ⟨⟨rfl, rfl, rfl, rfl, rfl, rfl, rfl, rfl, rfl, rfl, rfl, fun o h => nomatch h⟩, rfl,
        fun o h => nomatch h⟩
  · decide +kernel
  · decide +kernel

theorem hanging_tablesValid : tablesValid hanging := fun _ => test_crane_valid

theorem hanging_sourcesKept : sourcesKept hanging :=
  sourcesKept_of [] (by decide +kernel) (by decide +kernel) (by decide +kernel)

/-- A hold timer runs, a point is forced and a list is half polled in a RUN state about to step. -/
theorem witness_TablesAndSourcesKept :
    let s := ran .driveSilenceExpiry (withPoints [(40, { good 997 with hold := .running 640000 }),
      (41, { quality := .forced })] { hanging with
        forced := [41]
        segs := ⟨{ work := .exchange 2 true, pollList := [1, 2, 3], next := 2 }, { work := .gap }⟩ })
    (∃ t, step s = .next t) ∧ tablesValid s ∧ quietInConfig s ∧ sourcesKept s ∧ pollListsKept s := by
  refine ⟨⟨_, rfl⟩, fun _ => test_crane_valid, ?_, ?_, ?_⟩
  · intro h
    exact absurd h (by decide +kernel)
  · exact sourcesKept_of [40] (by decide +kernel) (by decide +kernel) (by decide +kernel)
  · rintro (_ | _) <;> decide +kernel

/-- NODE points that are fresh, given by a test that the kernel makes. -/
theorem nodesFresh_of {s : State}
    (h : ∀ p : PointNo, s.tables.source p = .node →
      (s.points[p].quality = .good ∨ s.points[p].quality = .limited ∨ p ∈ s.forced) →
      s.points[p].hold ≠ .stopped ∧ ∀ n : NodeNo, s.tables.points[p].refA.val = n.val →
        s.nodes[n].link = .online ∨ s.nodes[n].link = .suspect) : nodesFresh s := by
  intro _ p hp hq
  refine h p hp ?_
  rcases hq with hq | hq | ⟨hq, -⟩
  · exact .inl hq
  · exact .inr (.inl hq)
  · exact .inr (.inr hq)

/-- In RUN the intake of node 1 waits, and behind it its loss and a START; points 40 and 44 of the node are
fresh, 40 forced with a fresh intake withheld, and its timer has expired. -/
theorem witness_TablesAndSourcesKept_fresh :
    let s := ran .replyIntakeUpdate (withPoints
      [(40, { quality := .forced, hold := .expired 9, withheld := .fresh (.word 500) }),
        (41, {}), (42, {}), (43, {}), (44, { good 1 with hold := .running 90 }), (45, {}), (46, {}),
        (47, {}), (200, {}), (202, {})]
      { hanging with
        nodes := hanging.nodes.set 1 { link := .suspect, lossPending := true }, forced := [40]
        arbiter := [.replyIntake 1 [33, 1, 0, 0, 9, 0, 0] false, .nodeLoss 1 none, .manage .start]
        service := some ⟨manageTelegram 0 .start, .requested⟩ })
    (∃ t, step s = .next t) ∧ tablesValid s ∧ quietInConfig s ∧ forcedShown s ∧ requestsKept s ∧
      nodesFresh s := by
  refine ⟨⟨_, rfl⟩, fun _ => test_crane_valid, (fun h => nomatch h), by unfold forcedShown; decide +kernel,
    ⟨by decide +kernel, fun _ _ _ => ⟨_, rfl⟩, (fun h => nomatch h), fun _ => ⟨?_, ?_, ?_⟩⟩,
    nodesFresh_of (by decide +kernel)⟩
  · intro n payload rise h
    obtain ⟨rfl, -, -⟩ : n = 1 ∧ _ ∧ _ := by simpa [ran, withPoints] using h
    exact .inr (by decide +kernel)
  · intro n instant h
    obtain ⟨rfl, -⟩ : n = 1 ∧ _ := by simpa [ran, withPoints] using h
    decide +kernel
  · simp [ran, withPoints, Request.concerns]

/-- In CONFIG the intake of a node that was polled before a STOP waits before a START. -/
theorem witness_TablesAndSourcesKept_config :
    let s := ran .replyIntakeUpdate { State.reset with
      tables := crane, arbiter := [.replyIntake 1 [33] false, .manage .start]
      service := some ⟨manageTelegram 0 .start, .requested⟩ }
    requestsKept s ∧ s.mode = .config ∧ ∃ t, step s = .next t := by
  refine ⟨⟨by decide +kernel, fun _ _ _ => ⟨_, rfl⟩, fun _ => ?_, fun h => absurd rfl h⟩, rfl, ⟨_, rfl⟩⟩
  simp [ran, Request.concerns]

/-- Points within their limits, given by tests that the kernel makes. -/
theorem limitsKept_of {s : State}
    (h : ∀ p : PointNo, s.points[p].quality = .unset ∨
      s.tables.points[p].within s.points[p].value = true)
    (ha : ∀ p : PointNo, s.tables.source p = .node ∨ s.tables.source p = .plc ∨
      s.points[p].withheld = .absent) : limitsKept s := by
  refine fun p => ⟨fun hq => ?_, fun r hr => ?_⟩
  · unfold PointCfg.outside
    have h := (h p).resolve_left hq
    cases hf : s.tables.points[p].form <;> simp only [PointCfg.within, PointCfg.limits, hf] at h ⊢
    · rintro ⟨h0, h1⟩
      simp only [Bool.and_eq_true, decide_eq_true_eq] at h
      have : (s.points[p].value).toInt = 0 ∨ (s.points[p].value).toInt = 1 := by omega
      rcases this with h | h
      · exact h0 (BitVec.eq_of_toInt_eq h)
      · exact h1 (BitVec.eq_of_toInt_eq h)
    · simp only [Bool.and_eq_true, decide_eq_true_eq] at h
      omega
    · simp only [Bool.and_eq_true, decide_eq_true_eq] at h
      omega
    · exact id
  · rcases ha p with h | h | h
    · exact .inl h
    · exact .inr h
    · rw [h] at hr
      exact absurd hr nofun

/-- In RUN, with one OUT point blocked and two that pass. -/
theorem witness_OutPointsFollow :
    tablesValid hanging ∧ sourcesKept hanging ∧ outsFollow hanging ∧ limitsKept hanging ∧
      ∃ t, step (ran .cycleStart hanging) = .next t := by
  refine ⟨hanging_tablesValid, hanging_sourcesKept, ?_,
    limitsKept_of (by decide +kernel) (by decide +kernel), ⟨_, rfl⟩⟩
  intro p
  refine fun h => ⟨fun hc => absurd hc (by decide +kernel), ?_⟩
  rcases crane_outs p h with rfl | rfl | rfl
  · exact ⟨fun _ hp => absurd hp (not_passes_of_guard (e := 12) (by decide +kernel) (by decide +kernel)),
      fun _ _ => by decide +kernel⟩
  · exact ⟨fun _ _ => by decide +kernel, fun _ hn => absurd (passes_of_guard (e := 20) (by decide +kernel)
      (by decide +kernel) (by decide +kernel) (by decide +kernel) (by decide +kernel)) hn⟩
  · exact ⟨fun _ _ => by decide +kernel, fun _ hn => absurd (passes_unguarded (by decide +kernel)
      (by decide +kernel) (by decide +kernel)) hn⟩

/-- The early press of section 4.9: the feed is active, the permit false, the latch set. -/
def pressed : State := withPoints [(200, good 1), (210, { quality := .substituted, latch := true })] hanging

theorem witness_RearmLatchesStaySet :
    tablesValid pressed ∧ sourcesKept pressed ∧ latchesSet pressed ∧
      pressed.interlocks[12].effective = false ∧ pressed.feedActive 200 = true ∧
      ∃ t, step (ran .cycleStart pressed) = .next t := by
  refine ⟨fun _ => test_crane_valid, ?_, ?_, by decide +kernel, by decide +kernel, ⟨_, rfl⟩⟩
  · exact sourcesKept_of [] (by decide +kernel) (by decide +kernel) (by decide +kernel)
  · intro _ p e h
    rcases crane_outs p h with rfl | rfl | rfl <;> revert e <;> decide +kernel

/-- A force of a point granted in RUN, and the state after it. -/
def forcing (p : Word16) (v : Word32) (s : State) : State × State :=
  let s := waitingFor (.force p v) s
  (s, after (.force 0 p v) s)

/-- R74, row by row: a press against a false permit and against a true one, the release of the button, an
overload under a pressed button, and its end. -/
theorem witness_RearmLatchesStaySet_table :
    let down := withPoints [(103, good 1)] { pressed with
      interlocks := hanging.interlocks.set 12 { terms := #v[heldTerm, {}, heldTerm, {}] } }
    let moved := fun x : State × State =>
      (x.1.mode == .run && x.2.mode == .run, x.1.feedActive 200, x.2.feedActive 200,
        x.1.interlocks[12].effective, x.2.interlocks[12].effective, x.1.points[210].latch,
        x.2.points[210].latch)
    moved (forcing 200 1 hanging) = (true, false, true, false, false, false, true) ∧
      moved (forcing 200 1 landed) = (true, false, true, true, true, false, false) ∧
      moved (forcing 200 0 pressed) = (true, true, false, false, false, true, false) ∧
      moved (forcing 103 1 (withPoints [(200, good 1), (210, good 1)] landed)) =
        (true, true, true, true, false, false, true) ∧
      moved (forcing 103 0 { down with points := down.points.set 106 (good 4) |>.set 110 (good 1) }) =
        (true, true, true, false, true, true, true) := by
  refine ⟨?_, ?_, ?_, ?_, ?_⟩ <;> decide +kernel

/-- In RUN with a NODE point and two DERIVED points forced, one of these with members that are STALE, a
full return queue, a forward in flight and one queued, a reception under way on the spreader port, the
cab port sending, and a SAFE that waits. -/
def busyRun : State := withPoints
  [(41, { good 1012 with quality := .forced, forcedValue := 1012, withheld := .fresh (.word 500) }),
    (44, { quality := .stale }), (45, { quality := .stale }), (46, { quality := .stale }),
    (47, { quality := .stale }), (103, { quality := .forced }),
    (106, { value := 4, quality := .forced, forcedValue := 4 })]
  { hanging with
    returns := fullQueue, forced := [106, 41, 103]
    segs := ⟨{ work := .forward, inFlight := some ⟨25, 13, true, []⟩
               queue := [⟨26, 13, true, []⟩], outbox := [safeTelegram] }, { work := .gap }⟩
    ports := { hanging.ports with
      spreader := { rx := .receiving, content := [62] }
      cab := { rxOpen := false, sending := some safeTelegram } } }

theorem busyRun_forcedShown : forcedShown busyRun := by
  unfold forcedShown
  decide +kernel

theorem busyRun_derivedCurrent : derivedCurrent busyRun := by
  intro _
  decide +kernel

theorem witness_DerivedStaysCurrent :
    sourcesKept busyRun ∧ forcedShown busyRun ∧ quietInConfig busyRun ∧ tablesValid busyRun ∧
      derivedCurrent busyRun ∧ busyRun.forced ≠ [] ∧
      ∃ t, step (ran .cycleStart busyRun) = .next t :=
  ⟨sourcesKept_of [] (by decide +kernel) (by decide +kernel) (by decide +kernel),
    busyRun_forcedShown, (fun h => nomatch h), fun _ => test_crane_valid, busyRun_derivedCurrent,
    nofun, ⟨_, rfl⟩⟩

theorem witness_PermitsStayCurrent :
    permitsCurrent hanging ∧ ∃ t, step (ran .cycleStart hanging) = .next t := by
  refine ⟨?_, ⟨_, rfl⟩⟩
  intro _
  decide +kernel

/-- START, the entry to RUN, STOP and the reset line each change the mode. -/
theorem witness_ModeTransitions :
    (after (.start 0) (waitingFor .start { State.reset with tables := flipper 100 })).mode = .starting ∧
      (after .entryToRun (granting .entryToRun { hanging with mode := .starting })).mode = .run ∧
      (after (.stop 0) (waitingFor .stop hanging)).mode = .config ∧
      (after .resetLine hanging).mode = .config ∧ hanging.mode = .run ∧
      exec .resetLine hanging = .next (after .resetLine hanging) := by
  refine ⟨?_, ?_, ?_, ?_, ?_, rfl⟩ <;> decide +kernel

/-- A hold timer runs out as others that ran out at its instant, and earlier, still wait. -/
theorem witness_RequestsInOrder :
    let s := { (withPoints [(40, { good 997 with hold := .running 9 })] hanging) with
      arbiter := [.entryToRun, .holdExpiry 41 8, .driveSilence 9, .sample 0 3 9] }
    exec (.holdTimerExpiry 40) s = .next (after (.holdTimerExpiry 40) s) ∧
      (Request.holdExpiry 40 9).instant? = some 9 ∧
      (∀ q ∈ [Request.entryToRun, .holdExpiry 41 8], q.instant? ≠ some 9) ∧
      (∀ q ∈ [Request.driveSilence 9, .sample 0 3 9], q.instant? = some 9) ∧
      [Request.driveSilence 9, .sample 0 3 9].Pairwise (fun a b => requestBefore crane a b = true) ∧
      (∀ q ∈ s.arbiter, q.instant? ≠ some 10) ∧
      crane.nodes[(3 : NodeNo)].segment = crane.nodes[(4 : NodeNo)].segment := by
  refine ⟨rfl, rfl, ?_, ?_, ?_, ?_, ?_⟩ <;> decide +kernel

/-- START in CONFIG changes the quality of point 60 from GOOD to UNSET; a loss granted in CONFIG. -/
theorem witness_ImageFrozenInConfig :
    let s := waitingFor .start
      (withPoints [(60, good 0)] { State.reset with tables := flipper 100 })
    let u := granting (.nodeLoss 3 none) { hanging with mode := .config }
    s.mode = .config ∧ exec (.start 0) s = .next (after (.start 0) s) ∧
      (after (.start 0) s).points[60].quality ≠ s.points[60].quality ∧ u.alive = true ∧
      u.mode = .config ∧ u.arbiter = [.nodeLoss 3 none] ∧
      blockUpdate (.nodeLoss 3 none) = some .nodeLossUpdate := by
  refine ⟨?_, rfl, ?_, rfl, rfl, rfl, rfl⟩ <;> decide +kernel

theorem witness_TelegramCrossesLine :
    safeTelegram.telegram.payload.length ≤ 250 ∧
      (Telegram.mk 1 62 .fetchAnswer 3 (List.replicate 250 255)).payload.length = 250 := by
  decide +kernel

/-- Codes 0 and 17; code 1 with an operand too few, code 2 with fewer than its fixed operands, code 16
with one too many. -/
theorem witness_ManageRoundTrip :
    let lengths := [3, 3, 1, 0, 0, 0, 6, 2, 0, 3, 1, 3, 2, 2, 1, 0]
    16 < (17 : Octet).toNat ∧ lengths[(1 : Octet).toNat - 1]? = some 3 ∧
      lengths[(2 : Octet).toNat - 1]? = some 3 ∧ [0, (0 : Octet)].length < 3 ∧
      [0, (0 : Octet)].length ≠ 3 ∧ lengths[(16 : Octet).toNat - 1]? = some 0 ∧
      [(0 : Octet)].length ≠ 0 := by decide

/-- Every table has an entry and an image that its fields accept: the last entry's, as crane has it, and of
the NODE table entry 1's (an entry after power-on has type 0, which WRITE ENTRY refuses, R102). -/
theorem witness_EntryImageRoundTrip :
    ([1, 2, 3, 4, 5, 6, 7, 8, 9, 10, 11].all fun t =>
      let e := if t = 2 then 1 else entriesOf t - 1
      match crane.image t e with
      | some image =>
        decide (e < entriesOf t) && decide (image.length = imageLength (fieldsOf t)) &&
          (firstBadField 1 (fieldsOf t) (readImage (fieldsOf t) image)).isNone
      | none => false) = true := by decide +kernel

/-- A tie of the division, 128 above and below a multiple of 256; every row of R7's table; a seeded
counter; and point 220, which passes its feed 111 in every quality but UNSET, inside its limits and
outside. -/
theorem witness_PointValueRules :
    (divide256 384 ≠ 0 ∧ (256 * divide256 384 - 384).natAbs = 128 ∧ divide256 (-128) ≠ 0) ∧
      (∀ q : Quality, (∃ (c : PointCfg) (rt : PointRt), c.policy = .hold ∧ rt.quality = q) ∧
        ∃ (c : PointCfg) (rt : PointRt), c.policy = .safe ∧ rt.quality = q) ∧
      (∃ rt : PointRt, rt.quality = .forced ∧ rt.withheld = .aged (.bit true)) ∧
      (∃ (c : PointCfg) (rt : PointRt), c.form = .cnt ∧ c.source = .node ∧ rt.seed = true) ∧
      ∀ (q : Quality) (v : Int), q ≠ .unset →
        let s := withPoints [(111, { value := BitVec.ofInt 32 v, quality := q })] hanging
        s.tables.points[220].source = .feed ∧ s.passes 220 ∧
          s.tables.points[220].limits = some (0, 255) ∧
          (withPoints [(111, { value := 300, quality := q })] hanging).reading 111 = 300 := by
  refine ⟨by decide +kernel, fun q => ⟨⟨{ policy := .hold }, { quality := q }, rfl, rfl⟩,
    { policy := .safe }, { quality := q }, rfl, rfl⟩,
    ⟨{ quality := .forced, withheld := .aged (.bit true) }, rfl, rfl⟩,
    ⟨{ source := .node, form := .cnt }, { seed := true }, rfl, rfl, rfl⟩, ?_⟩
  intro q v hq
  refine ⟨rfl, passes_unguarded rfl ?_ rfl, rfl, ?_⟩
  · cases q <;> first | contradiction | (intro h; cases h)
  · cases q <;> rfl

/-- Tables that pass, with point 210 on output bit 0 of node 1; forms and limits with values below, in
and above them; lists that end at once and within. -/
theorem witness_ValuesReadAndSent :
    validate crane = none ∧ crane.source 210 = .feed ∧ crane.points[210].targetKind = .nodeOutBit ∧
      crane.points[210].targetA = 1 ∧ crane.points[210].targetB.val = 0 ∧
      crane.nodes[(1 : NodeNo)].outputBits = 3 ∧ crane.nodes[(1 : NodeNo)].outputWords = 1 ∧
      (loadPin 1).form = .ana ∧ (loadPin 1).low.toInt = 0 ∧ crane.points[111].form = .word ∧
      crane.points[111].high.toInt = 255 ∧ crane.points[110].form = .bin ∧
      crane.writeList[0] ≠ none ∧ crane.writeList[1] ≠ none ∧ crane.writeList[2] = none ∧
      2 * 0 + 1 < ([1, 244] : List Octet).length := by
  refine ⟨test_crane_valid, ?_⟩
  decide +kernel

/-- Tables that pass, and tables that fail by check 5 of point 60, with points of each source named. -/
theorem witness_ValidationRefuses :
    validate crane = none ∧ validate (flipper 120) = some ⟨1, 60, 5⟩ ∧
      crane.source 110 = .plc ∧ crane.source 100 = .derived ∧ crane.source 210 = .feed ∧
      crane.points[210].guard = some 12 ∧ crane.points[220].localTarget = some 3 := by
  refine ⟨test_crane_valid, ?_, ?_, ?_, ?_, ?_, ?_⟩ <;> decide +kernel

/-- Entries 0 (SUM) and 2 (RATIO) of section 3.9 with members GOOD and with one UNSET, a ratio over 0, and
TRIP entries 3 (RISING) and 5 (FALLING) with an input that is trusted and one that is not, at their levels. -/
theorem witness_DerivedResults :
    let unset := withPoints [(40, {}), (101, {}), (100, {})] hanging
    crane.derived[(0 : DerivedNo)].kind = .sum ∧ crane.derived[(2 : DerivedNo)].kind = .ratio ∧
      crane.derived[(2 : DerivedNo)].count = 2 ∧ crane.derived[(3 : DerivedNo)].kind = .trip ∧
      crane.derived[(3 : DerivedNo)].falling = false ∧ crane.derived[(5 : DerivedNo)].falling = true ∧
      crane.points[100].limits = some (0, 24000) ∧ crane.points[102].limits = some (-1000, 1000) ∧
      unset.points[40].quality = .unset ∧ unset.points[100].quality = .unset ∧
      ([40, 41, 42, 43].all fun p : PointNo => decide (hanging.points[p].quality = .good)) = true ∧
      hanging.reading 100 ≠ 0 ∧ (withPoints [(100, good 0)] hanging).reading 100 = 0 ∧
      (withPoints [(100, good 5000)] hanging).reading 100 =
        crane.derived[(3 : DerivedNo)].setLevel.toInt ∧
      (withPoints [(100, good 4800)] hanging).reading 100 =
        crane.derived[(3 : DerivedNo)].resetLevel.toInt ∧
      ((-53) * 1000 : Int).natAbs / 1000 = (2 * (1000 * (-226 : Int).natAbs) + 4244) / (2 * 4244) := by
  decide +kernel

/-- Entry 12's three used terms, satisfied and not, with a hold time and with none, in each state. -/
theorem witness_TermMoves :
    let c := crane.interlocks[(12 : InterlockNo)]
    c.count.val ≤ (3 : TermNo).val ∧ (2 : TermNo).val < c.count.val ∧ 0 < c.terms[(0 : TermNo)].hold ∧
      c.terms[(1 : TermNo)].hold = 0 ∧ c.terms[(0 : TermNo)].test = .atLeast ∧
      landed.points[106].quality = .good ∧ landed.points[106].value = c.terms[(0 : TermNo)].level ∧
      hanging.points[106].value.toInt < c.terms[(0 : TermNo)].level.toInt ∧
      heldTerm.state ≠ .unsatisfied ∧ (({} : TermRt).state = .unsatisfied) := by decide +kernel

theorem witness_HoldGapIsLargestDistance :
    (∀ b, b < 1 → (0 : Word16).getLsbD b = false) ∧
      ∃ b, b < 16 ∧ (0x8000 : Word16).getLsbD b = true := by
  refine ⟨by decide +kernel, 15, by decide +kernel⟩

/-! ### Commands answered at once -/

/-- Tables 0 and 12 are unknown; the first entry beyond each end; the last entries there are; every part
of the status, and the first number that is none. -/
theorem witness_ReadsAnswer :
    State.reset.canServe ∧ hanging.canServe ∧ (0 : Octet).toNat < 1 ∧ 11 < (12 : Octet).toNat ∧
      entriesOf (1 : Octet).toNat ≤ (384 : Word16).toNat ∧ (383 : Word16).toNat < entriesOf (1 : Octet).toNat ∧
      entriesOf (11 : Octet).toNat ≤ (1 : Word16).toNat ∧ (0 : Word16).toNat < entriesOf (11 : Octet).toNat ∧
      4 < (5 : Octet).toNat :=
  ⟨reset_canServe, hanging_canServe, by decide +kernel⟩

/-- Entry 15 of NODE written with a corner module's image; the first and the last table cleared. -/
theorem witness_TableWritesStore :
    let image := (crane.image 2 1).getD []
    State.reset.canServe ∧ State.reset.mode = .config ∧
      (15 : Word16).toNat < entriesOf (2 : Octet).toNat ∧ image.length = imageLength (fieldsOf 2) ∧
      firstBadField 1 (fieldsOf 2) (readImage (fieldsOf 2) image) = none ∧ 1 ≤ (1 : Octet).toNat ∧
      (11 : Octet).toNat ≤ 11 :=
  ⟨reset_canServe, by decide +kernel⟩

/-- RUN; tables 0 and 12; an entry beyond the last; an image of another length; the last field of GLOBAL
out of range with every field before it in range. -/
theorem witness_TableWritesRefused :
    let fields := fieldsOf 11
    let image : List Octet := [0, 100, 1, 0, 50, 0, 50, 20, 20, 10, 0, 200, 25, 4, 0]
    hanging.canServe ∧ State.reset.canServe ∧ hanging.mode ≠ .config ∧ State.reset.mode = .config ∧
      ¬ (1 ≤ (0 : Octet).toNat ∧ (0 : Octet).toNat ≤ 11) ∧
      ¬ (1 ≤ (12 : Octet).toNat ∧ (12 : Octet).toNat ≤ 11) ∧
      entriesOf (11 : Octet).toNat ≤ (1 : Word16).toNat ∧ ([] : List Octet).length ≠ imageLength fields ∧
      image.length = imageLength fields ∧
      ∃ (k : Nat) (f : Field), fields[k]? = some f ∧
        f.accepts ((readImage fields image).getD k 0) = false ∧
        (((List.range k).all fun j => match fields[j]? with
          | some g => g.accepts ((readImage fields image).getD j 0)
          | none => true) = true) := by
  refine ⟨hanging_canServe, reset_canServe, by decide +kernel, by decide +kernel, by decide +kernel,
    by decide +kernel, by decide +kernel, by decide +kernel, by decide +kernel,
    10, _, rfl, ?_, ?_⟩ <;> decide +kernel

/-- A full return queue, in CONFIG and in RUN, one segment sending, with a SAFE that waits, and one not. -/
theorem witness_RestartReinitialises :
    let s := { forwarding with
      returns := fullQueue
      ports := { forwarding.ports with cab := { rxOpen := false, sending := some safeTelegram } }
      segs := { forwarding.segs with cab := { outbox := [safeTelegram] } } }
    s.canServe ∧ s.returns.length ≤ 4 ∧ s.mode ≠ .config ∧
      (s.ports.get (portOf .spreader)).sending = none ∧
      (s.ports.get (portOf .cab)).sending = some safeTelegram ∧
      { s with mode := .config }.canServe := by
  refine ⟨⟨rfl, rfl, rfl, rfl, rfl, rfl⟩, ?_, ?_, rfl, rfl, ⟨rfl, rfl, rfl, rfl, rfl, rfl⟩⟩ <;> decide +kernel

/-- Node 16 does not exist; the cases of section 7.11. -/
theorem witness_SetMaskChecked :
    let s : State := { State.reset with mode := .run, tables := flipper 100 }
    let gap (mask : Word16) := (holdGap mask 4 + 1) * 100
    s.canServe ∧ 16 ≤ (16 : Octet).toNat ∧ (6 : Octet).toNat = (6 : NodeNo).val ∧
      s.tables.nodes[6].enabled = true ∧ (∀ b, b < 4 → (16 : Word16).getLsbD b = false) ∧
      (1 : Word16).getLsbD 0 = true ∧ (5 : Word16).getLsbD 0 = true ∧
      s.tables.source 60 = .node ∧ 10 * s.tables.points[60].holdLimit < gap 1 ∧
      ¬ 10 * s.tables.points[60].holdLimit < gap 5 ∧ ¬ 10 * s.tables.points[61].holdLimit < gap 5 ∧
      indicesOf (fun c : PointCfg => decide (c.source = .node)) s.tables.points = [60, 61] :=
  ⟨⟨rfl, rfl, rfl, rfl, rfl, rfl⟩, by decide +kernel⟩

theorem witness_AttentionAndCounters :
    polling.canServe ∧ (polling.segs.get .spreader).work = .exchange 3 true :=
  ⟨⟨rfl, rfl, rfl, rfl, rfl, rfl⟩, rfl⟩

/-- A payload that fits the write list, one an octet short, and one that would fit but in CONFIG. -/
theorem witness_ExchangeTakenOrAnswered :
    hanging.canServe ∧ hanging.mode ≠ .config ∧
      [0, 1, 0, (3 : Octet)].length = 2 * (listed hanging.tables.writeList).length ∧
      [0, 1, (0 : Octet)].length ≠ 2 * (listed hanging.tables.writeList).length ∧
      State.reset.canServe ∧ State.reset.mode = .config := by
  refine ⟨hanging_canServe, ?_, ?_, ?_, reset_canServe, rfl⟩ <;> decide +kernel

/-- An empty queue, and records of every outcome, answers of 247 and 248 octets among them. -/
theorem witness_FetchTakesOldest :
    State.reset.canServe ∧ State.reset.returns = [] ∧
      ∀ o : ReturnOutcome, { State.reset with returns := ⟨7, o⟩ :: fullQueue.take 3 }.canServe ∧
        (List.replicate 247 (0 : Octet)).length ≤ 247 ∧ 247 < (List.replicate 248 (0 : Octet)).length :=
  ⟨reset_canServe, rfl, fun _ => ⟨⟨rfl, rfl, rfl, rfl, rfl, rfl⟩, by decide +kernel⟩⟩

/-- Section 8.7: to 13, to 62, to 12 whose node is LOST, to 20 which no entry matches, to all nodes, a full
queue, a segment in GAP. -/
theorem witness_ForwardDecided :
    let f : Forward := ⟨1, 13, true, []⟩
    let queued : State := { forwarding with
      segs := ⟨{ work := .done, queue := [f, f, f, f] }, { work := .done }⟩ }
    let matching (d : Addr) (k : Fin 8) : Bool :=
      decide (forwarding.tables.forwards[k].target ≠ none) &&
        decide (d.val &&& forwarding.tables.forwards[k].matchMask.val =
          forwarding.tables.forwards[k].matchValue.val &&& forwarding.tables.forwards[k].matchMask.val)
    State.reset.canServe ∧ State.reset.mode = .config ∧ forwarding.canServe ∧ queued.canServe ∧
      queued.tables = forwarding.tables ∧ forwarding.mode ≠ .config ∧
      (62 : Addr) = Config.junction ∧ ((List.finRange 8).any (matching 20)) = false ∧
      matching 13 0 = true ∧ matching 12 0 = true ∧ matching 63 2 = true ∧ matching 63 0 = false ∧
      matching 63 1 = false ∧ forwarding.tables.forwards[(0 : Fin 8)].target = some .spreader ∧
      forwarding.tables.nodes[2].address = 12 ∧ forwarding.nodes[2].link = .lost ∧
      forwarding.nodes[3].link = .online ∧ (forwarding.segs.get .spreader).queue.length < 4 ∧
      (forwarding.segs.get .spreader).work ≠ .gap ∧ (hanging.segs.get .spreader).work = .gap ∧
      (hanging.ports.get .spreader).sending = none ∧ (hanging.ports.get .spreader).inProgress = false ∧
      queued.mode ≠ .config ∧ (queued.segs.get .spreader).queue.length = 4 ∧
      queued.nodes[3].link = .online := by
  refine ⟨reset_canServe, rfl, forwarding_canServe, ⟨rfl, rfl, rfl, rfl, rfl, rfl⟩, rfl, ?_⟩
  decide +kernel

/-- A FETCH is served while the port still sends the answer before it, whose row then finds the port
open or closed; its answer, and a RESTART's, wait as an EXCHANGE and a STOP wait to be served. -/
theorem witness_DriveServiceQueue :
    let t : DriveTelegram := ⟨.fetch, 62, 1, []⟩
    let o : Outgoing := ⟨⟨1, 62, .fetchAnswer, 0, [0]⟩, .answer⟩
    let serving (stage : ServiceStage) (busy : Bool) : State := { hanging with
      service := some ⟨t, stage⟩
      ports := { hanging.ports with
        drive := { rxOpen := !busy, sending := if busy then some o else none } } }
    let a : Telegram := ⟨1, 62, .manageAnswer, 1, [6, 0]⟩
    telegramOf (.fetch 1 []) = some (t, .toServe) ∧
      telegramOf (.restart 1) = some (manageTelegram 1 .restart, .toServe) ∧
      telegramOf (.stop 1) = some (manageTelegram 1 .stop, .requested) ∧
      (∀ stage busy, (serving stage busy).alive = true ∧ (serving stage busy).waiting = none ∧
        (serving stage busy).service = some ⟨t, stage⟩ ∧
        (serving stage busy).ports.drive.rxOpen = !busy ∧
        (serving stage busy).ports.drive.reinit = false) ∧
      (serving .toServe true).ports.drive.sending = some o ∧
      (∃ w, exec (.fetch 1 []) (serving .toServe false) =
        .next (answered (serving .toServe false) .fetchAnswer t.seq [0] w)) ∧
      parseManage (Command.payload .stop) = (5, .ok .stop) ∧ Command.isUpdate .stop = true ∧
      parseManage [17] = (17, .error .unknownCommand) ∧
      a = ⟨(serving (.answered a true) true).tables.global.plcAddress, Config.junction, .manageAnswer,
        t.seq, [6, 0]⟩ := by
  refine ⟨rfl, rfl, rfl, ?_, rfl, ⟨{ hanging with ports := hanging.ports }, rfl⟩, rfl, rfl, rfl, rfl⟩
  rintro stage (_ | _) <;> exact ⟨rfl, rfl, rfl, rfl, rfl⟩

/-! ### Management updates -/

/-- CONFIG with the worked cases' tables. -/
def loaded : State := { State.reset with tables := crane }

/-- With quiet ports `loaded` is quiet. -/
theorem loaded_quiet (s : State)
    (h : s = { loaded with ports := s.ports, arbiter := s.arbiter, service := s.service })
    (hp : ∀ g, portQuiet (s.ports.get (portOf g))) : quietInConfig s := by
  rw [h]
  refine fun _ => ⟨rfl, rfl, ?_, rfl, ?_, ?_, ?_, ?_, rfl, rfl, rfl, rfl⟩
  · intro p
    simp [loaded, State.reset]
  · exact (by decide +kernel :
      ∀ n : NodeNo, loaded.nodes[n].link = .absent ∧ loaded.nodes[n].lossPending = false)
  · rintro (_ | _) <;> exact
      ⟨⟨rfl, rfl, rfl, rfl, rfl, rfl, rfl, rfl, rfl, rfl, rfl, fun o h => nomatch h⟩, hp _⟩
  · exact (by decide +kernel : ∀ o : OutputNo, loaded.outputs[o] = loaded.outputs[o].quieted)
  · exact (by decide +kernel : ∀ k : ChannelNo, loaded.channels[k].sample = .stopped)

/-- CONFIG with the worked cases' tables, its two segments free; a derived entry and outputs of TRAIN
and, in the other state, DUTY mode. -/
theorem witness_StartInitialises :
    let duty := { loaded with tables := { crane with
      outputs := crane.outputs.set 3 { mode := .duty } } }
    (waitingFor .start loaded).atGrantOf (manageTelegram 0 .start) (.manage .start) [] ∧
      quietInConfig (waitingFor .start loaded) ∧
      loaded.mode = .config ∧ validate loaded.tables = none ∧ loaded.tables.points[40].source = .node ∧
      loaded.tables.points[110].source = .plc ∧ loaded.tables.points[112].source = .line ∧
      loaded.tables.points[112].refA.val = (5 : InputNo).val ∧ loaded.tables.points[120].source = .state ∧
      loaded.tables.points[130].source = .channel ∧
      loaded.tables.points[130].refA.val = (0 : ChannelNo).val ∧
      loaded.tables.points[100].source = .derived ∧ loaded.tables.points[210].source = .feed ∧
      loaded.tables.derived[9].kind = .unused ∧ loaded.tables.interlocks[12].mode ≠ .unused ∧
      loaded.tables.outputs[3].mode ≠ .duty ∧ validate duty.tables = none ∧
      (loaded.ports.get .spreader).sending = none ∧
      (loaded.ports.get .spreader).inProgress = false := by
  refine ⟨waitingFor_atGrant (s := loaded) ⟨rfl, rfl, rfl, rfl, rfl, rfl⟩ _, loaded_quiet _ rfl ?_, rfl,
    test_crane_valid, by decide +kernel⟩
  rintro (_ | _) <;> exact ⟨rfl, fun o h => nomatch h⟩

/-- As witness_StartInitialises, with the cab port still sending the SAFE of a STOP, a reception under
way on the spreader port, and a node of each segment to poll. -/
theorem witness_StartInitialises_busy :
    let s := waitingFor .start { loaded with
      ports := { loaded.ports with
        spreader := { rx := .receiving, content := [62] }
        cab := { rxOpen := false, sending := some safeTelegram } } }
    s.atGrantOf (manageTelegram 0 .start) (.manage .start) [] ∧ quietInConfig s ∧
      s.mode = .config ∧ validate s.tables = none ∧
      (s.ports.get (portOf .cab)).sending ≠ none ∧
      (s.ports.get (portOf .spreader)).sending = none ∧
      (s.ports.get (portOf .spreader)).inProgress = true ∧
      s.tables.nodes[8].enabled = true ∧ s.tables.nodes[8].segment = .cab ∧
      s.tables.nodes[8].pollMask.getLsbD 0 = true := by
  refine ⟨⟨rfl, rfl, rfl, rfl, rfl, rfl⟩, loaded_quiet _ rfl ?_, rfl, test_crane_valid,
    by decide +kernel⟩
  rintro (_ | _)
  · exact ⟨rfl, fun o h => nomatch h⟩
  · refine ⟨rfl, ?_⟩
    rintro o ⟨⟩
    decide +kernel

/-- The state of `busyRun`: what is forced comes back, of its two forced results one stands on members
that change and one on members that do not, and results 100 and 102 have members that change. -/
theorem witness_StopAbandonsAll :
    let s := busyRun
    let w := after (.stop 0) (waitingFor .stop s)
    (waitingFor .stop s).atGrantOf (manageTelegram 0 .stop) (.manage .stop) [] ∧
      forcedShown (waitingFor .stop s) ∧ derivedCurrent (waitingFor .stop s) ∧
      validate s.tables = none ∧ s.mode ≠ .config ∧ s.forced.Nodup ∧ s.returns.length ≤ 4 ∧
      s.isForced 40 = false ∧ s.isForced 41 = true ∧
      s.tables.derived[3].kind ≠ .unused ∧ s.tables.derived[3].result = 103 ∧
      s.isForced 103 = true ∧ s.differs w 100 = true ∧
      s.tables.derived[6].kind ≠ .unused ∧ s.tables.derived[6].result = 106 ∧
      s.isForced 106 = true ∧ (∀ m ∈ s.tables.derived[6].used, s.differs w m.point = false) ∧
      s.isForced 104 = false ∧ s.differs w 102 = true ∧
      (s.ports.get (portOf .spreader)).sending = none ∧
      (s.ports.get (portOf .spreader)).inProgress = true ∧
      (s.ports.get (portOf .cab)).sending = some safeTelegram := by
  refine ⟨waitingFor_atGrant ⟨rfl, rfl, rfl, rfl, rfl, rfl⟩ _, busyRun_forcedShown,
    busyRun_derivedCurrent, test_crane_valid, ?_⟩
  decide +kernel

/-- Points of each source that may be forced: 40 NODE, 110 PLC, 112 LINE, 120 STATE, 130 CHANNEL, 100
DERIVED; 41 is forced already; 15 points are forced, so that a sixteenth may join. -/
theorem witness_ForceHoldsPoint :
    let s := { hanging with
      forced := [41, 42, 43, 44, 45, 46, 47, 101, 102, 103, 104, 105, 106, 111, 200] }
    (∀ p v, (waitingFor (.force p v) s).atGrantOf (manageTelegram 0 (.force p v)) (.manage (.force p v)) []) ∧
      s.mode ≠ .config ∧ s.tables.resultsBound ∧ s.forced.length < 16 ∧ s.isForced 41 = true ∧
      (([40, 41, 110, 112, 120, 130, 100] : List PointNo).map s.tables.source) =
        [.node, .node, .plc, .line, .state, .channel, .derived] ∧
      s.tables.points[40].limits = some (0, 6000) ∧ (-1 : Word32).toInt < 0 ∧ 6000 < (6001 : Word32).toInt ∧
      0 ≤ (6000 : Word32).toInt ∧ (6000 : Word32).toInt ≤ 6000 := by
  refine ⟨fun p v => waitingFor_atGrant ⟨rfl, rfl, rfl, rfl, rfl, rfl⟩ _, ?_, crane_resultsBound, ?_⟩ <;>
    decide +kernel

/-- CONFIG, STARTING and RUN; tables that fail; numbers just beyond the ends; full lists. -/
theorem witness_UpdatesRefused :
    let full := { hanging with
      forced := [41, 42, 43, 44, 45, 46, 47, 101, 102, 103, 104, 105, 106, 111, 200, 202]
      bypasses := [⟨0, .running 9⟩, ⟨1, .running 9⟩, ⟨2, .running 9⟩, ⟨3, .running 9⟩] }
    (∀ c, (waitingFor c loaded).atGrantOf (manageTelegram 0 c) (.manage c) []) ∧
      (∀ c, (waitingFor c full).atGrantOf (manageTelegram 0 c) (.manage c) []) ∧
      loaded.mode = .config ∧ full.mode = .run ∧
      (validate (flipper 120)).map (fun f => f.code) = some 5 ∧
      384 ≤ (384 : Word16).toNat ∧ 48 ≤ (48 : Octet).toNat ∧ full.tables.source 0 = .unused ∧
      full.tables.source 210 = .feed ∧ full.tables.source 40 = .node ∧ full.isForced 40 = false ∧
      16 ≤ full.forced.length ∧ (0 : Word16).toNat < 1 ∧ 600 < (601 : Word16).toNat ∧
      full.tables.interlocks[12].bypassable = false ∧ full.tables.interlocks[0].mode = .unused ∧
      full.tables.interlocks[20].bypassable = true ∧ full.isBypassed 20 = false ∧
      4 ≤ full.bypasses.length := by
  refine ⟨fun c => waitingFor_atGrant ⟨rfl, rfl, rfl, rfl, rfl, rfl⟩ _,
    fun c => waitingFor_atGrant ⟨rfl, rfl, rfl, rfl, rfl, rfl⟩ _, ?_⟩
  decide +kernel

/-- Points 41 NODE, 120 STATE and 106 DERIVED forced, the withheld intake of 41 absent, FRESH or AGED; point
42 not forced. The members of the entry of point 106 are neither forced nor DERIVED. -/
theorem witness_ReleaseReturnsPoint :
    ∀ w, let s := { forced41 w with forced := [41, 120, 106] }
      (∀ c, (waitingFor c s).atGrantOf (manageTelegram 0 c) (.manage c) []) ∧
      s.mode ≠ .config ∧ validate s.tables = none ∧ s.forced.Nodup ∧
      s.isForced 41 = true ∧ s.isForced 42 = false ∧ s.points[41].withheld = w ∧
      s.isForced 106 = true ∧ s.tables.points[106].refA = 6 ∧
      (∀ p ∈ s.forced, s.tables.source p ≠ .feed) ∧ s.tables.source 41 = .node ∧
      s.tables.points[41].form ≠ .cnt ∧ s.tables.source 120 = .state ∧ s.tables.source 106 = .derived ∧
      ∀ m ∈ s.tables.derived[6].used,
        s.isForced m.point = false ∧ s.tables.source m.point ≠ .derived := by
  intro w
  refine ⟨fun c => waitingFor_atGrant ⟨rfl, rfl, rfl, rfl, rfl, rfl⟩ _, nofun, test_crane_valid,
    (by decide : [(41 : PointNo), 120, 106].Nodup), rfl, rfl, rfl, rfl, rfl,
    (by decide +kernel : ∀ p ∈ [(41 : PointNo), 120, 106], crane.source p ≠ .feed), rfl, ?_, rfl, rfl, ?_⟩
  · exact (by decide +kernel : crane.points[(41 : PointNo)].form ≠ .cnt)
  · exact (by decide +kernel : ∀ m ∈ crane.derived[(6 : DerivedNo)].used,
      [(41 : PointNo), 120, 106].contains m.point = false ∧ crane.source m.point ≠ .derived)

/-- Entry 20 with no bypass, three bypasses of others, and already bypassed; 1 s and 600 s. -/
theorem witness_BypassBeginsAndEnds :
    let three := { landed with bypasses := [⟨0, .running 9⟩, ⟨1, .running 9⟩, ⟨2, .running 9⟩] }
    (∀ c, (waitingFor c three).atGrantOf (manageTelegram 0 c) (.manage c) []) ∧
      (∀ c, (waitingFor c bypassed).atGrantOf (manageTelegram 0 c) (.manage c) []) ∧
      three.tables.resultsBound ∧ three.mode = .run ∧ (20 : Octet).toNat = (20 : InterlockNo).val ∧
      three.tables.interlocks[20].mode ≠ .unused ∧ three.tables.interlocks[20].bypassable = true ∧
      1 ≤ (1 : Word16).toNat ∧ (600 : Word16).toNat ≤ 600 ∧ three.isBypassed 20 = false ∧
      three.bypasses.length < 4 ∧ bypassed.isBypassed 20 = true := by
  refine ⟨fun c => waitingFor_atGrant ⟨rfl, rfl, rfl, rfl, rfl, rfl⟩ _,
    fun c => waitingFor_atGrant ⟨rfl, rfl, rfl, rfl, rfl, rfl⟩ _, crane_resultsBound, ?_⟩
  decide +kernel

/-! ### Updates of the blocks -/

/-- In RUN, in CONFIG, and in STARTING with every enabled node ONLINE. -/
theorem witness_ExchangeWritesPlcPoints :
    let t : DriveTelegram := ⟨.exchange, 62, 1, [0, 1, 0, 3]⟩
    let s := { granting (.exchange [1, 3]) hanging with service := some ⟨t, .requested⟩ }
    s.atGrantOf t (.exchange [1, 3]) [] ∧ { s with mode := .config }.atGrantOf t (.exchange [1, 3]) [] ∧
      { s with mode := .starting }.atGrantOf t (.exchange [1, 3]) [] ∧ s.runRequested = false ∧
      (∀ n : NodeNo, s.tables.nodes[n].enabled = true → s.nodes[n].link = .online) ∧
      s.mode = .run ∧ s.tables.resultsBound ∧ (listed s.tables.writeList).Nodup ∧
      [1, (3 : Word16)].length = (listed s.tables.writeList).length ∧
      (∀ p ∈ listed s.tables.writeList, s.tables.source p = .plc) ∧
      (listed s.tables.writeList)[0]? = some 110 ∧ (listed s.tables.writeList)[1]? = some 111 ∧
      s.tables.points[110].form = .bin ∧ s.tables.points[111].form = .word := by
  refine ⟨⟨rfl, rfl, rfl, rfl, rfl, rfl⟩, ⟨rfl, rfl, rfl, rfl, rfl, rfl⟩, ⟨rfl, rfl, rfl, rfl, rfl, rfl⟩, rfl,
    ?_, rfl, crane_resultsBound, ?_⟩ <;> decide +kernel

theorem witness_ExpiriesAgePoints :
    let s := granting (.holdExpiry 40 9) (withPoints [(40, { good 997 with hold := .expired 9 })] hanging)
    s.tables.resultsBound ∧ s.grants (.holdExpiry 40 9) [] ∧ s.points[40].hold = .expired 9 ∧
      s.tables.source 40 = .node ∧ (granting (.holdExpiry 40 9) hanging).points[40].hold ≠ .expired 9 ∧
      (granting (.driveSilence 9) hanging).grants (.driveSilence 9) [] ∧ s.tables.source 110 = .plc := by
  refine ⟨crane_resultsBound, ⟨rfl, nofun, rfl⟩, rfl, rfl, nofun, granting_grants _, rfl⟩

/-- In RUN, and in STARTING with the exchange taken and every enabled node ONLINE. -/
theorem witness_ReplyRefreshesPoints :
    let r : Request := .replyIntake 3 [33, 0, 0, 52, 237, 0, 0] true
    let s := { granting r hanging with mode := .starting, exchangeTaken := true }
    (granting r hanging).grants r [] ∧ s.grants r [] ∧ s.runRequested = false ∧
      (∀ n : NodeNo, s.tables.nodes[n].enabled = true → s.nodes[n].link = .online) ∧
      hanging.tables.resultsBound ∧
      hanging.tables.points[42].refA.val = (3 : NodeNo).val ∧ hanging.tables.source 42 = .node ∧
      hanging.tables.points[120].refA.val = (3 : NodeNo).val ∧ hanging.tables.source 120 = .state ∧
      hanging.tables.points[120].form = .bin ∧ hanging.tables.points[42].form ≠ .cnt := by
  refine ⟨granting_grants _, ⟨rfl, nofun, rfl⟩, rfl, ?_, crane_resultsBound, rfl, rfl, rfl, rfl, rfl, nofun⟩
  decide +kernel

theorem witness_LossAgesNodePoints :
    let s := { hanging with nodes := hanging.nodes.set 3 { link := .suspect, lossPending := true } }
    (granting (.nodeLoss 3 none) s).grants (.nodeLoss 3 none) [] ∧ s.tables.resultsBound ∧
      s.nodes[3].lossPending = true ∧ (granting (.nodeLoss 3 none) hanging).grants (.nodeLoss 3 none) [] ∧
      hanging.nodes[3].lossPending = false ∧ s.tables.source 42 = .node ∧ s.tables.source 120 = .state := by
  refine ⟨⟨rfl, nofun, rfl⟩, crane_resultsBound, rfl, granting_grants _, rfl, rfl, rfl⟩

theorem witness_TermAndBypassExpiries :
    let timed := { landed with
      interlocks := landed.interlocks.set 12
        { terms := #v[⟨.timing, .expired 9⟩, heldTerm, heldTerm, {}] } }
    let ended := { landed with bypasses := [⟨20, .expired 9⟩] }
    landed.tables.resultsBound ∧ (granting (.termHold 12 0 9) timed).grants (.termHold 12 0 9) [] ∧
      timed.interlocks[12].terms[0] = ⟨.timing, .expired 9⟩ ∧ timed.tables.interlocks[12].mode ≠ .unused ∧
      (granting (.termHold 12 0 9) landed).grants (.termHold 12 0 9) [] ∧
      landed.interlocks[12].terms[0] ≠ ⟨.timing, .expired 9⟩ ∧
      (granting (.bypassExpiry 20 9) ended).grants (.bypassExpiry 20 9) [] ∧
      ⟨20, .expired 9⟩ ∈ ended.bypasses ∧ ended.tables.interlocks[20].mode ≠ .unused ∧
      (granting (.bypassExpiry 20 9) landed).grants (.bypassExpiry 20 9) [] ∧
      ⟨20, .expired 9⟩ ∉ landed.bypasses := by
  refine ⟨crane_resultsBound, ⟨rfl, nofun, rfl⟩, ?_, ?_, ⟨rfl, nofun, rfl⟩, ?_, ⟨rfl, nofun, rfl⟩, ?_, ?_,
    ⟨rfl, nofun, rfl⟩, ?_⟩ <;> decide +kernel

/-- Both requests, in STARTING and in RUN; points 210 with a REARM guard and 220 with none; node 8 SILENT,
with points 200 under SAFE and 202 under HOLD, and node 3 ONLINE, with point 42. -/
theorem witness_EntryToRunSetsLatches :
    let s := { withPoints [(200, {}), (202, {})] pressed with
      mode := .starting, nodes := pressed.nodes.set 8 { link := .silent } }
    let silent := fun p : PointNo => (List.finRange 16).any fun n =>
      decide (s.nodes[n].link = .silent) && s.tables.points[p].refA.val == n.val
    s.tables.source 200 = .node ∧ silent 200 = true ∧ s.tables.points[200].policy = .safe ∧
      s.tables.source 202 = .node ∧ silent 202 = true ∧ s.tables.points[202].policy = .hold ∧
      s.tables.source 42 = .node ∧ silent 42 = false ∧
    (granting (.startTimer 9) s).alive = true ∧ (granting (.startTimer 9) s).arbiter = [.startTimer 9] ∧
      (granting .entryToRun s).arbiter = [.entryToRun] ∧ validate s.tables = none ∧ s.mode = .starting ∧
      pressed.mode ≠ .starting ∧ s.tables.source 220 = .feed ∧ s.tables.points[220].guard = none ∧
      s.tables.source 210 = .feed ∧ s.tables.points[210].guard = some 12 ∧
      s.tables.interlocks[12].mode = .rearm := by
  refine ⟨?_, ?_, ?_, ?_, ?_, ?_, ?_, ?_, rfl, rfl, rfl, test_crane_valid, rfl, nofun, ?_⟩ <;>
    decide +kernel

theorem witness_LevelsAndSamplesWritten :
    hanging.tables.resultsBound ∧ (granting (.lineLevel 5 true 9) hanging).grants (.lineLevel 5 true 9) [] ∧
      (granting (.sample 0 1003 9) hanging).grants (.sample 0 1003 9) [] ∧
      hanging.tables.source 112 = .line ∧ hanging.tables.points[112].refA.val = (5 : InputNo).val ∧
      hanging.tables.points[112].form = .bin ∧ hanging.tables.source 130 = .channel ∧
      hanging.tables.points[130].refA.val = (0 : ChannelNo).val ∧ hanging.tables.points[130].form = .ana := by
  refine ⟨crane_resultsBound, granting_grants _, granting_grants _, ?_⟩
  decide +kernel

/-! ### Events on the lines -/

/-- A port that seeks; receptions of no octet, of 5, of 255 and of 256; six octets with a wrong check, a
wrong length and a wrong address, and a good telegram; the drive port among them. -/
theorem witness_ReceptionsOnTheLine :
    let s := fun n => holding (List.replicate n 5) hanging
    let cab := busyRun.ports.get .cab
    let withCheck := fun body : List Octet => body ++ octets16 (check body)
    let judged := fun content : List Octet => match classify content with
      | .error o => some o
      | .ok _ => none
    hanging.alive = true ∧ (hanging.ports.get .cab).rx = .seeking ∧ (hanging.ports.get .cab).rxOpen = true ∧
      ((s 0).ports.get .spreader).rx = .receiving ∧ ((s 0).ports.get .spreader).content = [] ∧
      ((s 5).ports.get .spreader).content.length < 6 ∧ ((s 5).ports.get .spreader).content ≠ [] ∧
      ((s 255).ports.get .spreader).content.length < 256 ∧
      ((s 256).ports.get .spreader).content.length = 256 ∧
      judged [62, 13, 32, 0, 0, 0] = some .badCheck ∧
      judged (withCheck [62, 13, 32, 1]) = some .lengthMismatch ∧
      judged (withCheck [64, 13, 32, 0]) = some .badHeader ∧
      judged (withCheck [62, 13, 36, 0]) = some .badHeader ∧
      (hanging.ports.get .spreader).awaited = .nothing ∧
      ((holding safeTelegram.telegram.octets hanging).ports.get .spreader).content =
        safeTelegram.telegram.octets ∧ safeTelegram.telegram.payload.length ≤ 250 ∧
      safeTelegram.telegram.dest ≠ 0 ∧
      cab.rxOpen = false ∧ cab.rx = .seeking ∧ cab.content = [] ∧ cab.bits = [] ∧
      ((holding (Telegram.octets ⟨0, 13, .reply, 0, []⟩) hanging).ports.get .spreader).content =
        Telegram.octets ⟨0, 13, .reply, 0, []⟩ := by
  decide +kernel

/-- Telegrams from the PLC, address 1, of each kind it sends, one of an update and one at once; one that
is not ours, and one that its form refuses; while none is served, while one is, and with one waiting. -/
theorem witness_DriveTelegramTaken :
    let receiving (t : Telegram) (s : State) : State :=
      updPort .drive (fun r => { r with rx := .receiving, content := t.octets }) s
    let u : DriveTelegram := ⟨.fetch, 62, 1, []⟩
    (∀ t : Telegram, (receiving t hanging).alive = true ∧ (receiving t hanging).service = none ∧
      (receiving t hanging).waiting = none ∧ (receiving t hanging).ports.drive.sending = none ∧
      (receiving t hanging).ports.drive.rx = .receiving ∧
      (receiving t hanging).ports.drive.content = t.octets ∧
      (receiving t { hanging with service := some ⟨u, .toServe⟩ }).service ≠ none ∧
      (receiving t { hanging with service := some ⟨u, .toServe⟩, waiting := some u }).waiting ≠ none) ∧
      parseManage [1] = (1, .error .badLength) ∧
      hanging.tables.global.plcAddress = 1 ∧ (62 : Addr) = Config.junction ∧ (62 : Addr) ≠ 0 ∧
      [Kind.exchange, .manage, .fetch, .forward].map DriveKind.ofKind =
        [some .exchange, some .manage, some .fetch, some .forward] ∧
      Command.start.isUpdate = true ∧ (Command.readStatus 0).isUpdate = false ∧
      (2 : Addr) ≠ hanging.tables.global.plcAddress ∧ (Kind.poll) ≠ .forward := by
  refine ⟨fun t => ⟨rfl, rfl, rfl, rfl, rfl, rfl, nofun, nofun⟩, rfl, ?_⟩
  decide +kernel

/-- The good REPLY awaited; a late one, one of FORMAT and one of IDENTITY, and a telegram for another; 5
octets, and 256; the window expired and not; and the FORWARD ANSWER awaited by its forward. -/
theorem witness_AwaitedReceptionsEndWork :
    let t : Telegram := ⟨62, 13, .reply, 0, [33, 0, 0, 52, 237, 0, 0]⟩
    let f : Forward := ⟨20, 13, true, []⟩
    let s := polling
    let expired := { s with
      segs := ⟨{ s.segs.spreader with window := .stopped, windowExpired := true }, s.segs.cab⟩ }
    let u := { forwarding with
      segs := ⟨{ work := .forward, inFlight := some f }, {}⟩
      ports := { forwarding.ports with spreader := { awaited := .forwardAnswer } } }
    let c := s.tables.nodes[3]
    (∀ octets, (holding octets s).alive = true ∧
      ((holding octets s).ports.get (portOf .spreader)).rx = .receiving ∧
      ((holding octets s).ports.get (portOf .spreader)).content = octets ∧
      ((holding octets s).ports.get (portOf .spreader)).awaited = .reply 13 ∧
      ((holding octets s).segs.get .spreader).work = .exchange 3 true ∧
      ((holding octets expired).segs.get .spreader).windowExpired = true ∧
      ((holding octets u).ports.get (portOf .spreader)).rx = .receiving ∧
      ((holding octets u).ports.get (portOf .spreader)).awaited = .forwardAnswer ∧
      ((holding octets u).segs.get .spreader).work = .forward ∧
      ((holding octets u).segs.get .spreader).inFlight = some f) ∧
      t.payload.length ≤ 250 ∧ (s.segs.get .spreader).windowExpired = false ∧
      t.dest = Config.junction ∧ t.kind = .reply ∧ t.seq = s.nodes[3].lastSeq ∧
      (1 : Seq) ≠ s.nodes[3].lastSeq ∧
      t.payload.length = 1 + (c.inputBits + 7) / 8 + 2 * c.inputWords ∧
      t.payload.head? = some c.expectedType ∧ some (34 : Octet) ≠ some c.expectedType ∧
      (0 : Seq).val = f.tag.toNat % 4 ∧ (1 : Seq).val ≠ f.tag.toNat % 4 := by
  refine ⟨fun octets => ⟨rfl, rfl, rfl, rfl, rfl, rfl, rfl, rfl, rfl, rfl⟩, ?_⟩
  decide +kernel

/-- Nodes in every link state with counts at the last value before and at their limits, and one with its
loss pending; miss limits and rejoin counts of 1 and of more. -/
theorem witness_LinkStateMoves :
    let at_ (r : NodeRt) : State := { hanging with nodes := hanging.nodes.set 3 r }
    (∀ r, (at_ r).nodes[3] = r) ∧ hanging.tables.nodes[3].missLimit = 3 ∧
      hanging.tables.nodes[3].rejoinCount = 3 ∧ (2 : Nat) + 1 = 3 ∧ (1 : Nat) + 1 < 3 ∧
      { corner 13 with missLimit := 1, rejoinCount := 1 }.missLimit ≤ 1 ∧
      (∀ m : NodeNo, m ≠ 3 → hanging.tables.nodes[m].enabled = true → hanging.nodes[m].link = .online) := by
  refine ⟨fun r => rfl, ?_⟩
  decide +kernel

/-- A port sending the POLL of the exchange, a SAFE, and a forward of either kind, with a POLL, a SAFE and a
forward that wait for it, and a port on which a RESTART fell into the transmission. -/
theorem witness_TransmissionEnds :
    let sending (o : Outgoing) (s : State) : State :=
      updPort .spreader (fun r => { r with rxOpen := false, sending := some o }) s
    let forwarded (b : Bool) : State := sending ⟨⟨13, 62, .forward, 0, []⟩, .forward b⟩ { forwarding with
      segs := ⟨{ work := .forward, inFlight := some ⟨20, 13, b, []⟩ }, {}⟩ }
    let waits (o : Outgoing) : State := { hanging with
      segs := ⟨{ work := .exchange 3 false, outbox := [o] }, {}⟩ }
    (∀ o, (sending o hanging).alive = true ∧ ((sending o hanging).ports.get .spreader).sending = some o ∧
      ((sending o hanging).ports.get .spreader).reinit = false ∧
      (updPort .spreader PortRt.restarted (sending o hanging)).ports.spreader.reinit = true ∧
      (updPort .spreader PortRt.restarted (sending o hanging)).ports.spreader.sending = some o.abandon ∧
      ((waits o).segs.get .spreader).outbox = [o] ∧
      ((waits o).segs.get .spreader).work = .exchange 3 false) ∧
      (pollTelegram hanging 3).owner = .poll 3 ∧ (polling.segs.get .spreader).work = .exchange 3 true ∧
      (polling.segs.get .spreader).outbox = [] ∧ safeTelegram.owner = .safe ∧
      safeTelegram.abandon.owner = .safe ∧ (pollTelegram hanging 3).abandon.owner = .abandoned ∧
      (∀ b, (forwardTelegram ⟨20, 13, b, []⟩).owner = .forward b) ∧
      ((forwarded true).segs.get .spreader).work = .forward ∧
      ((forwarded false).segs.get .spreader).inFlight = some ⟨20, 13, false, []⟩ ∧
      { hanging with ports := { hanging.ports with drive := { sending := some safeTelegram } } }.service =
        none := by
  refine ⟨fun o => ⟨rfl, rfl, rfl, rfl, rfl, rfl, rfl⟩, ?_⟩
  decide +kernel

/-! ### Timers -/

/-- A cycle start that finds an exchange in flight with a node not polled, and a segment in GAP with an
empty queue or with a forward that waits. -/
theorem witness_CycleStartFormsLists :
    let s := fun queue => { slots with
      cycleTimer := .running 64000
      segs := ⟨{ work := .exchange 1 true, pollList := [0, 1, 2], next := 2 }, { work := .gap, queue }⟩ }
    ∀ queue, (s queue).alive = true ∧ (s queue).cycleTimer = .running 64000 ∧
      pollListsKept (s queue) ∧ (∀ g, ((s queue).segs.get g).work ≠ .stopped) ∧
      ((s queue).segs.get .spreader).work = .exchange 1 true ∧
      ((s queue).segs.get .spreader).pollList.drop ((s queue).segs.get .spreader).next = [2] ∧
      ((s queue).segs.get .cab).work = .gap ∧ ((s queue).segs.get .cab).queue = queue ∧
      ((s queue).ports.get .cab).sending = none ∧ ((s queue).ports.get .cab).inProgress = false := by
  intro s queue
  refine ⟨rfl, rfl, ?_, ?_, rfl, rfl, rfl, rfl, rfl, rfl⟩
  · have h : ∀ n ∈ [(0 : NodeNo), 1, 2],
        slots.tables.nodes[n].enabled = true ∧ slots.tables.nodes[n].segment = .spreader := by
      decide +kernel
    rintro (_ | _)
    · exact ⟨(by decide : [(0 : NodeNo), 1, 2].Pairwise (· < ·)), (by decide : 2 ≤ 3), h⟩
    · exact ⟨List.Pairwise.nil, Nat.le_refl 0, fun n h => nomatch h⟩
  · rintro (_ | _) <;> exact nofun

/-- A reply window and an answer window that run out, with an octet collected and with none. -/
theorem witness_WindowsRunOut :
    let f : Forward := ⟨21, 13, true, []⟩
    let s := { forwarding with
      segs := ⟨{ work := .forward, inFlight := some f, answerWindow := .running 9 }, {}⟩ }
    polling.alive = true ∧ (polling.segs.get .spreader).window = .running 8000 ∧
      (polling.segs.get .spreader).work = .exchange 3 true ∧
      ((holding [62] polling).ports.get .spreader).rx = .receiving ∧
      ((holding [62] polling).ports.get .spreader).content ≠ [] ∧
      (polling.ports.get .spreader).rx ≠ .receiving ∧ polling.nodes[3].link = .online ∧
      1 < polling.tables.nodes[3].missLimit ∧ polling.nodes[3].lossPending = false ∧
      (s.segs.get .spreader).answerWindow = .running 9 ∧ (s.segs.get .spreader).work = .forward ∧
      (s.segs.get .spreader).inFlight = some f ∧ s.returns.length < 4 := by decide +kernel

/-- A free port, at rest and with a reception under way. Nodes left in the list; none left with the forward sent, with an empty queue, and with one. -/
theorem witness_TurnaroundSelectsWork :
    let at_ (r : SegRt) : State :=
      { slots with segs := ⟨{ r with work := .turnaround, turnaround := .running 9 }, {}⟩ }
    (∀ r, (at_ r).alive = true ∧ ((at_ r).segs.get .spreader).turnaround = .running 9 ∧
      ((at_ r).segs.get .spreader).work = .turnaround ∧ ((at_ r).ports.get .spreader).sending = none ∧
      ((at_ r).ports.get .spreader).inProgress = false ∧
      ((holding [62] (at_ r)).ports.get .spreader).sending = none ∧
      ((holding [62] (at_ r)).ports.get .spreader).inProgress = true) ∧
      [(0 : NodeNo), 1, 2][1]? = some 1 ∧ [(0 : NodeNo), 1, 2].length ≤ 3 ∧
      (at_ { pollList := [0, 1, 2], next := 3, forwardSent := true }).segs.spreader.forwardSent = true ∧
      (at_ { pollList := [0, 1, 2], next := 3 }).segs.spreader.queue = [] ∧
      (at_ { queue := [⟨7, 13, true, []⟩] }).segs.spreader.queue = [⟨7, 13, true, []⟩] := by
  refine ⟨fun r => ⟨rfl, rfl, rfl, rfl, rfl, rfl, rfl⟩, ?_⟩
  decide +kernel

theorem witness_ExpiriesRequestUpdates :
    let s := withPoints [(40, { good 997 with hold := .running 9 })] { landed with
      bypasses := [⟨20, .running 9⟩], silenceTimer := .running 9, startTimer := .running 9
      interlocks := landed.interlocks.set 12
        { terms := #v[⟨.timing, .running 9⟩, heldTerm, heldTerm, {}] } }
    s.alive = true ∧ s.points[40].hold = .running 9 ∧ s.interlocks[12].terms[0].timer = .running 9 ∧
      ⟨20, .running 9⟩ ∈ s.bypasses ∧ (s.bypasses.map Bypass.entry).Nodup ∧
      s.silenceTimer = .running 9 ∧ s.startTimer = .running 9 := by decide +kernel

/-- Input 5 with its debounce of 50 ms and input 0 with none; a timer that runs. -/
theorem witness_InputsDebounced :
    let s := { hanging with
      inputs := hanging.inputs.set 5 ⟨⟨true, false, .running 9⟩, 0⟩ }
    s.alive = true ∧ true = s.inputs[5].pin.line ∧ false ≠ s.inputs[5].pin.line ∧
      false = s.inputs[5].pin.accepted ∧ s.inputs[5].pin.timer = .running 9 ∧
      s.inputs[5].pin.line ≠ s.inputs[5].pin.accepted ∧
      true ≠ hanging.inputs[5].pin.line ∧ true ≠ hanging.inputs[5].pin.accepted ∧
      0 < hanging.tables.inputs[5].debounce.toNat ∧ true ≠ s.inputs[0].pin.line ∧
      true ≠ s.inputs[0].pin.accepted ∧ s.tables.inputs[0].debounce.toNat = 0 ∧
      s.tables.outputs[3].mode = .train ∧ s.tables.outputs[3].enableInput.toNat = (5 : InputNo).val ∧
      s.tables.outputs[0].mode ≠ .train := by decide +kernel

/-- The lamp timer, a period and an on time, and trains in every phase that runs out. -/
theorem witness_OutputTimers :
    let at_ (train : Train) : State := { hanging with
      lampTimer := .running 9
      outputs := hanging.outputs.set 3 { last := 1, train, period := .running 9, onTimer := .running 9 } }
    ∀ train, (at_ train).alive = true ∧ (at_ train).lampTimer = .running 9 ∧
      (at_ train).outputs[3].period = .running 9 ∧ (at_ train).outputs[3].onTimer = .running 9 ∧
      (at_ train).outputs[3].train = train ∧ (at_ train).outputs[3].last ≠ 0 ∧
      hanging.outputs[3].last = 0 := by
  intro at_ train
  exact ⟨rfl, rfl, rfl, rfl, rfl, (by decide : (1 : Word32) ≠ 0), rfl⟩

/-- Outputs of each mode, a train in each state and its enable input at either level; values 0, the last
value and another. -/
theorem witness_OutputsTakeValues :
    let with_ (mode : OutputMode) (rt : OutputRt) : State := { hanging with
      tables := { crane with outputs := crane.outputs.set 3 { crane.outputs[(3 : OutputNo)] with mode } }
      outputs := hanging.outputs.set 3 rt }
    (∀ mode rt, (with_ mode rt).tables.outputs[3].mode = mode ∧ (with_ mode rt).outputs[3] = rt ∧
      (with_ mode rt).mode ≠ .config ∧
      (with_ mode rt).tables.outputs[3].enableInput.toNat = (5 : InputNo).val) ∧
      { hanging with mode := .config }.mode = .config ∧
      hanging.inputs[5].pin.accepted ≠ crane.outputs[(3 : OutputNo)].disablingLevel ∧
      crane.outputs[(3 : OutputNo)].disablingLevel = true ∧ (1 : Word32) ≠ 0 ∧ (1 : Word32) ≠ 2 ∧
      Train.running true (.running 9) (.count 1) ≠ .idle := by
  refine ⟨fun mode rt => ⟨rfl, rfl, nofun, rfl⟩, rfl, ?_⟩
  decide +kernel

/-- A channel in each mode with an edge of A, of B and of Z that is due, and with levels that change; a
COUNT channel one below its ceiling, at it, one below its limit and above it; presets below, at and above
the limit; levels of A and B that are accepted
together, with Z and without. -/
theorem witness_CaptureChannelsMeasure :
    let rise : Debounced := ⟨true, false, .running 9⟩
    let at_ (c : ChannelCfg) (r : ChannelRt) : State := { hanging with
      tables := { crane with channels := crane.channels.set 0 c }
      channels := hanging.channels.set 0 r }
    (∀ c r, (at_ c r).alive = true ∧ (at_ c r).tables.channels[0] = c ∧ (at_ c r).channels[0] = r) ∧
      rise.timer = .running 9 ∧ rise.line ≠ rise.accepted ∧ true ≠ ({} : Debounced).line ∧
      true ≠ ({} : Debounced).accepted ∧
      ({ count := 2147483646 } : ChannelRt).count < 2147483647 ∧
      2147483647 ≤ ({ count := 2147483647 } : ChannelRt).count ∧
      ({ count := 499 } : ChannelRt).count + 1 = (({ limit := 500 } : ChannelCfg).limit : Int) ∧
      ((false, false), (true, false)) ∈ [((false, false), (true, false)), ((true, false), (true, true)),
        ((true, true), (false, true)), ((false, true), (false, false))] ∧
      ({ a := rise, b := rise } : ChannelRt).lastPair = (rise.accepted, rise.accepted) ∧
      (({ limit := 500 } : ChannelCfg).limit : Int) ≤ ({ count := 501 } : ChannelRt).count ∧
      ({ limit := 500, preset := 499 } : ChannelCfg).preset < 500 ∧
      ({ limit := 500, preset := 500 } : ChannelCfg).preset = 500 ∧
      500 < ({ limit := 500, preset := 501 } : ChannelCfg).preset ∧
      ({ z := rise, reached := false } : ChannelRt).z.line = true ∧
      crane.channels[(0 : ChannelNo)].index = .presetOnce ∧
      (Instr.captureLevelChange 0 [(.a, true), (.z, true), (.b, true)] 9).wellFormed = true ∧
      (∀ k, (Instr.captureLevelChange k [(.b, true), (.a, true)] 9).wellFormed = true) ∧
      (.a, !({} : ChannelRt).a.accepted) ∈ [(CapInput.b, true), (.a, true)] ∧
      ({} : ChannelRt).a.line = ({} : ChannelRt).a.accepted ∧
      ({ mode := .quad } : ChannelCfg).debounce.toNat = 0 := by
  refine ⟨fun c r => ⟨rfl, rfl, rfl⟩, ?_⟩
  decide +kernel

end Sys2Proof.Tests
end

