-- ==== Sys2Proof/Proofs/PointValues.lean ====
section
/-! PROOFS. How point values are made: the rounding division, the stale policy, the advance of a counter,
clamping, and the value of a passing OUT point. -/

namespace Sys2Proof.Machine

/-! ## The division by 256 (R35) -/

/-- Halves go up on the side of the positive numbers. -/
theorem divide256_of_nonneg {p : Int} (h : 0 ≤ p) : divide256 p = (p + 128) / 256 := by
  rcases Int.lt_or_eq_of_le h with hpos | rfl
  · rw [divide256, Int.sign_eq_one_of_pos hpos]
    omega
  · rfl

theorem divide256_neg (p : Int) : divide256 (-p) = -divide256 p := by
  simp only [divide256, Int.sign_neg, Int.natAbs_neg, Int.neg_mul]

/-- Halves go down on the side of the negative numbers. -/
theorem divide256_of_nonpos {p : Int} (h : p ≤ 0) : divide256 p = -((-p + 128) / 256) := by
  rw [← divide256_of_nonneg (Int.neg_nonneg_of_nonpos h), divide256_neg, Int.neg_neg]

theorem natAbs_divide256 (p : Int) : (divide256 p).natAbs = (p.natAbs + 128) / 256 := by
  rcases Int.le_total 0 p with h | h
  · rw [divide256_of_nonneg h]; omega
  · rw [divide256_of_nonpos h]; omega

theorem sign_divide256 {p : Int} (hq : divide256 p ≠ 0) : (divide256 p).sign = p.sign := by
  rcases Int.le_total 0 p with h | h
  · rw [divide256_of_nonneg h] at hq ⊢
    rw [Int.sign_eq_one_of_pos (by omega), Int.sign_eq_one_of_pos (by omega)]
  · rw [divide256_of_nonpos h] at hq ⊢
    rw [Int.sign_eq_neg_one_of_neg (by omega), Int.sign_eq_neg_one_of_neg (by omega)]

/-- No whole number is nearer to a 256th of the dividend. -/
theorem divide256_nearest (p : Int) : 2 * (256 * divide256 p - p).natAbs ≤ 256 := by
  rcases Int.le_total 0 p with h | h
  · rw [divide256_of_nonneg h]; omega
  · rw [divide256_of_nonpos h]; omega

theorem divide256_half_away_from_zero {p : Int} (hp : (256 * divide256 p - p).natAbs = 128) :
    p.natAbs ≤ (256 * divide256 p).natAbs := by
  rcases Int.le_total 0 p with h | h
  · rw [divide256_of_nonneg h] at hp ⊢; omega
  · rw [divide256_of_nonpos h] at hp ⊢; omega

/-! ## The stale policy (R7) -/

section
variable {c : PointCfg} {rt : PointRt}

theorem applyStale_substituted (h : rt.quality = .substituted) : applyStale c rt = rt := by
  simp only [applyStale, h]

theorem applyStale_forced (h : rt.quality = .forced) :
    applyStale c rt = { rt with withheld := rt.withheld.toAged } := by
  simp only [applyStale, h]

theorem applyStale_safe (hs : rt.quality ≠ .substituted) (hf : rt.quality ≠ .forced)
    (hp : c.policy = .safe) :
    applyStale c rt = { rt with value := c.safeValue, quality := .substituted } := by
  cases hq : rt.quality with
  | substituted => exact absurd hq hs
  | forced => exact absurd hq hf
  | unset | good | limited | stale => simp only [applyStale, hq, hp]

/-- HOLD leaves a point that has no fresh value to lose. -/
theorem applyStale_hold_idle (h : rt.quality = .unset ∨ rt.quality = .stale) (hp : c.policy = .hold) :
    applyStale c rt = rt := by
  rcases h with h | h <;> simp only [applyStale, h, hp]

theorem applyStale_hold_fresh (h : rt.quality = .good ∨ rt.quality = .limited)
    (hp : c.policy = .hold) : applyStale c rt = { rt with quality := .stale } := by
  rcases h with h | h <;> simp only [applyStale, h, hp]

theorem applyStale_forced_absent (h : rt.quality = .forced) (hw : rt.withheld = .absent) :
    applyStale c rt = rt := by
  rw [applyStale_forced h, hw, Withheld.toAged, ← hw]

theorem applyStale_forced_present (h : rt.quality = .forced) {r : Raw}
    (hw : rt.withheld = .fresh r ∨ rt.withheld = .aged r) :
    applyStale c rt = { rt with withheld := .aged r } := by
  rcases hw with hw | hw <;> rw [applyStale_forced h, hw, Withheld.toAged]

end

/-! ## The advance of a counter (R38) -/

/-- The advance is the difference of the counter words modulo 65536. -/
theorem toNat_advanceOf (raw last : Word16) :
    ((advanceOf raw last).toNat : Int) = ((raw.toNat : Int) - last.toNat) % 65536 := by
  have hr := raw.isLt
  have hl := last.isLt
  simp only [advanceOf, BitVec.toNat_setWidth, BitVec.toNat_sub]
  omega

theorem intake_cnt_seeded {c : PointCfg} {raw : Word16} {rt : PointRt} (hf : c.form = .cnt)
    (hs : c.source ≠ .state) (hseed : rt.seed = true) :
    intake c false (.word raw) rt =
      { rt with value := rt.value + advanceOf raw rt.lastRaw, lastRaw := raw, quality := .good } := by
  simp only [intake, intakeShown, hf, hs, hseed, Raw.asWord, ↓reduceIte, Bool.false_eq_true]

/-! ## Clamping (R33, R36, R49) -/

section
variable {c : PointCfg} {lo hi : Int}

theorem clamp_val (h : c.limits = some (lo, hi)) (v : Int) :
    (c.clamp v).1 = if v < lo then BitVec.ofInt 32 lo else if hi < v then BitVec.ofInt 32 hi
      else BitVec.ofInt 32 v := by
  simp only [PointCfg.clamp, h]
  by_cases below : v < lo
  · simp only [if_pos below]
  · by_cases above : hi < v
    · simp only [if_neg below, if_pos above]
    · simp only [if_neg below, if_neg above]

theorem clamp_bent (h : c.limits = some (lo, hi)) (v : Int) :
    (c.clamp v).2 = decide (v < lo ∨ hi < v) := by
  simp only [PointCfg.clamp, h]
  by_cases below : v < lo
  · simp only [below, ↓reduceIte, true_or, decide_true]
  · by_cases above : hi < v
    · simp only [below, above, ↓reduceIte, or_true, decide_true]
    · simp only [below, above, ↓reduceIte, or_false, decide_false]

/-- A value is bent exactly when the point has limits and the value lies outside them. -/
theorem clamp_bent_iff (c : PointCfg) (v : Int) :
    (c.clamp v).2 = true ↔ ∃ lo hi, c.limits = some (lo, hi) ∧ (v < lo ∨ hi < v) := by
  cases h : c.limits with
  | none =>
    simp only [PointCfg.clamp, h]
    exact ⟨nofun, nofun⟩
  | some limits =>
    obtain ⟨lo, hi⟩ := limits
    rw [clamp_bent h, decide_eq_true_eq]
    constructor
    · exact fun outside => ⟨lo, hi, rfl, outside⟩
    · rintro ⟨_, _, ⟨⟩, outside⟩
      exact outside

end

/-! ## OUT points (R60, R61) -/

theorem passes_iff {s : State} {p : PointNo} :
    s.passes p ↔ s.mode = .run ∧ s.points[s.tables.points[p].refB].quality ≠ .unset ∧
      guardAllows s s.tables.points[p] s.points[p].latch = true := by
  cases hg : s.tables.points[p].guard with
  | none => simp only [State.passes, guardAllows, hg]
  | some e =>
    simp only [State.passes, guardAllows, hg, Bool.and_eq_true, Bool.or_eq_true, decide_eq_true_eq,
      Bool.not_eq_true', ne_eq, Decidable.or_iff_not_imp_left]

/-- A passing point takes its feed's reading clamped into its own limits. -/
theorem outValue_of_passes {s : State} {p : PointNo} (h : s.passes p) :
    let c := s.tables.points[p]
    outValue s c s.points[p].latch =
      ((c.clamp (s.reading c.refB)).1,
        passedQuality s.points[c.refB].quality (c.clamp (s.reading c.refB)).2) := by
  intro c
  exact if_pos (passes_iff.mp h)

theorem passedQuality_trusted {q : Quality} (h : q = .good ∨ q = .forced) (bent : Bool) :
    passedQuality q bent = if bent then .limited else .good := by
  rcases h with rfl | rfl <;> rfl

@[simp] theorem passedQuality_limited (bent : Bool) : passedQuality .limited bent = .limited := rfl
@[simp] theorem passedQuality_stale (bent : Bool) : passedQuality .stale bent = .stale := rfl
@[simp] theorem passedQuality_substituted (bent : Bool) :
    passedQuality .substituted bent = .substituted := rfl

/-! ## The settled statement -/

/-- Settles O19: each clause is a law above, for the division, the stale policy by quality, the counter's
advance and the passing OUT point. -/
theorem pointValueRules : Obligations.PointValueRules := by
  refine ⟨fun p => ⟨natAbs_divide256 p, sign_divide256, divide256_neg p, divide256_nearest p,
    divide256_half_away_from_zero⟩, fun c rt => ⟨?_, ?_, ?_, ?_, ?_, ?_⟩, ?_, ?_⟩
  · exact fun ⟨hq, hp⟩ => applyStale_hold_idle (.inl hq) hp
  · exact fun ⟨hq, hp⟩ => applyStale_hold_fresh hq hp
  · exact fun ⟨hq, hp⟩ => applyStale_hold_idle (.inr hq) hp
  · exact fun ⟨hs, hf, hp⟩ => applyStale_safe hs hf hp
  · exact applyStale_substituted
  · exact fun hq => ⟨applyStale_forced_absent hq, fun _ => applyStale_forced_present hq⟩
  · intro c raw rt hform hsource hseed
    refine ⟨_, intake_cnt_seeded hform (by rw [hsource]; decide) hseed, ?_⟩
    rw [BitVec.toNat_add, Int.natCast_emod, Int.natCast_add, toNat_advanceOf]
    rfl
  · intro s p c v bent _ hpass got
    have hgot : got = passedQuality s.points[c.refB].quality (c.clamp v).2 :=
      congrArg Prod.snd (outValue_of_passes hpass)
    have hbent : (c.clamp v).2 = true ↔ bent := clamp_bent_iff c v
    refine ⟨fun lo hi hlim => ?_, fun hq => ?_, fun hq => ?_, fun hq => ?_, fun hq => ?_⟩
    · rw [outValue_of_passes hpass]
      exact clamp_val hlim v
    · rw [hgot, passedQuality_trusted hq]
      exact ⟨fun hb => if_pos (hbent.mpr hb), fun hb => if_neg fun h => hb (hbent.mp h)⟩
    · rw [hgot, hq, passedQuality_limited]
    · rw [hgot, hq, passedQuality_stale]
    · rw [hgot, hq, passedQuality_substituted]

end Sys2Proof.Machine
end

