-- ==== Sys2Proof/Proofs/DerivedPoints.lean ====
section
/-! PROOFS. What computing a derived entry gives: the members it reads, the worst of their qualities, the
weighted sum, the ratio and the trip state (R48 to R53), and what becomes of the result point (R55). -/

namespace Sys2Proof.Machine

/-! ## The used members (R43) -/

/-- The qualities of the used members, as R48 reads them. -/
def DerivedCfg.memberQualities (s : State) (d : DerivedCfg) : List Quality :=
  d.used.map fun m => s.points[m.point].quality

theorem take_finRange_four (count : Fin 5) :
    (List.finRange 4).take count.val =
      (List.finRange 4).filter fun k => decide (k.val < count.val) := by
  revert count
  decide

/-- The used members by their places. -/
theorem used_eq_map_places (d : DerivedCfg) :
    d.used =
      ((List.finRange 4).filter fun k => decide (k.val < d.count.val)).map fun k => d.members[k] := by
  have all : d.members.toList = (List.finRange 4).map fun k => d.members[k] :=
    List.ext_getElem (by simp) fun i _ _ => by simp
  rw [DerivedCfg.used, all, ← List.map_take, take_finRange_four]

theorem mem_memberQualities {s : State} {d : DerivedCfg} {q : Quality} :
    q ∈ d.memberQualities s ↔
      ∃ k : Fin 4, k.val < d.count.val ∧ s.points[d.members[k].point].quality = q := by
  simp only [DerivedCfg.memberQualities, used_eq_map_places, List.map_map, List.mem_map,
    List.mem_filter, List.mem_finRange, true_and, decide_eq_true_eq, Function.comp_apply]

theorem weightedSum_eq_sum (s : State) (d : DerivedCfg) :
    weightedSum s d =
      (((List.finRange 4).filter fun k => decide (k.val < d.count.val)).map fun k =>
        s.reading d.members[k].point * d.members[k].weight).sum := by
  rw [weightedSum, used_eq_map_places, List.foldl_map, List.sum_eq_foldl, List.foldl_map]

/-! ## The result quality (R48) -/

section
variable {qs : List Quality} {bent : Bool}

theorem resultQuality_substituted (h : .substituted ∈ qs) : resultQuality qs bent = .substituted := by
  simp only [resultQuality, List.contains_iff_mem, h, ↓reduceIte]

theorem resultQuality_stale (hs : .substituted ∉ qs) (h : .stale ∈ qs) :
    resultQuality qs bent = .stale := by
  simp only [resultQuality, List.contains_iff_mem, hs, h, ↓reduceIte]

theorem resultQuality_limited (hs : .substituted ∉ qs) (ht : .stale ∉ qs)
    (h : .limited ∈ qs ∨ bent = true) : resultQuality qs bent = .limited := by
  simp only [resultQuality, List.contains_iff_mem, Bool.or_eq_true, hs, ht, h, ↓reduceIte]

theorem resultQuality_good (hs : .substituted ∉ qs) (ht : .stale ∉ qs)
    (h : ¬ (.limited ∈ qs ∨ bent = true)) : resultQuality qs bent = .good := by
  simp only [resultQuality, List.contains_iff_mem, Bool.or_eq_true, hs, ht, h, ↓reduceIte]

end

/-! ## The ratio (R50, R51) -/

/-- A zero quotient has no sign to get wrong, so magnitude and sign rule settle the value. -/
theorem eq_perMille {n m v : Int} (size : v.natAbs = (2 * (1000 * n.natAbs) + m.natAbs) / (2 * m.natAbs))
    (sign : v ≠ 0 → (v < 0 ↔ ¬ (n < 0 ↔ m < 0))) : v = perMille n m := by
  simp only [perMille, ← size, eq_iff_iff]
  by_cases same : n < 0 ↔ m < 0
  · rw [if_pos same]; omega
  · rw [if_neg same]; omega

section
variable {c : PointCfg} {n m lo hi : Int}

theorem ratioValue_of_ne_zero (h : m ≠ 0) : ratioValue c n m = c.clamp (perMille n m) := if_neg h

theorem ratioValue_zero_of_pos (hl : c.limits = some (lo, hi)) (hm : m = 0) (hn : 0 < n) :
    ratioValue c n m = (BitVec.ofInt 32 hi, true) := by
  simp only [ratioValue, hl, hm, Option.getD_some, gt_iff_lt, hn, ↓reduceIte]

theorem ratioValue_zero_of_neg (hl : c.limits = some (lo, hi)) (hm : m = 0) (hn : n < 0) :
    ratioValue c n m = (BitVec.ofInt 32 lo, true) := by
  simp only [ratioValue, hl, hm, Option.getD_some, gt_iff_lt, hn, Int.lt_asymm hn, ↓reduceIte]

theorem ratioValue_zero_zero (hm : m = 0) (hn : n = 0) :
    ratioValue c n m = ((c.clamp 0).1, true) := by
  subst hm hn
  rfl

end

/-! ## The trip state (R52) -/

theorem tripState_rising {d : DerivedCfg} (h : d.falling = false) (input : Int) (prior : Bool) :
    tripState d input prior =
      if d.setLevel.toInt ≤ input then true else if input ≤ d.resetLevel.toInt then false
      else prior := by
  simp only [tripState, h, Bool.false_eq_true, ↓reduceIte, ge_iff_le]

theorem tripState_falling {d : DerivedCfg} (h : d.falling = true) (input : Int) (prior : Bool) :
    tripState d input prior =
      if input ≤ d.setLevel.toInt then true else if d.resetLevel.toInt ≤ input then false
      else prior := by
  simp only [tripState, h, ↓reduceIte, ge_iff_le]

/-! ## Computing an entry, kind by kind -/

section
variable {s : State} {e : DerivedNo}

theorem computeDerived_unset (hk : s.tables.derived[e].kind = .sum ∨ s.tables.derived[e].kind = .ratio)
    (h : .unset ∈ s.tables.derived[e].memberQualities s) :
    computeDerived s e = (some (s.points[s.tables.derived[e].result].value, .unset), s.trips[e]) := by
  rw [DerivedCfg.memberQualities, ← List.contains_iff_mem] at h
  rcases hk with hk | hk <;> simp only [computeDerived, hk, h, ↓reduceIte]

theorem computeDerived_sum (hk : s.tables.derived[e].kind = .sum)
    (h : .unset ∉ s.tables.derived[e].memberQualities s) :
    let d := s.tables.derived[e]
    let given := s.tables.points[d.result].clamp (weightedSum s d)
    computeDerived s e =
      (some (given.1, resultQuality (d.memberQualities s) given.2), s.trips[e]) := by
  rw [DerivedCfg.memberQualities, ← List.contains_iff_mem] at h
  simp only [computeDerived, hk]
  exact if_neg h

theorem computeDerived_ratio (hk : s.tables.derived[e].kind = .ratio)
    (h : .unset ∉ s.tables.derived[e].memberQualities s) :
    let d := s.tables.derived[e]
    let given := ratioValue s.tables.points[d.result] (s.reading d.members[(0 : Fin 4)].point)
      (s.reading d.members[(1 : Fin 4)].point)
    computeDerived s e =
      (some (given.1, resultQuality (d.memberQualities s) given.2), s.trips[e]) := by
  rw [DerivedCfg.memberQualities, ← List.contains_iff_mem] at h
  simp only [computeDerived, hk]
  exact if_neg h

theorem computeDerived_trip_trusted (hk : s.tables.derived[e].kind = .trip)
    (h : s.points[s.tables.derived[e].members[(0 : Fin 4)].point].quality.trusted = true) {b : Bool}
    (state : tripState s.tables.derived[e]
      (s.reading s.tables.derived[e].members[(0 : Fin 4)].point) s.trips[e] = b) :
    computeDerived s e = (some (wordOfBool b, .good), b) := by
  subst state
  simp only [computeDerived, hk]
  exact if_pos h

theorem computeDerived_trip_untrusted (hk : s.tables.derived[e].kind = .trip)
    (h : s.points[s.tables.derived[e].members[(0 : Fin 4)].point].quality.trusted = false) :
    let d := s.tables.derived[e]
    computeDerived s e = (some (wordOfBool d.failValue, .substituted), d.failValue) := by
  simp only [computeDerived, hk]
  exact if_neg (Bool.eq_false_iff.mp h)

/-- A computed entry sets its trip state, and its result point unless that is forced (R55). -/
theorem runDerived_of_computeDerived {v : Word32} {q : Quality} {b : Bool}
    (h : computeDerived s e = (some (v, q), b)) :
    let p := s.tables.derived[e].result
    runDerived e s = { s with
      trips := s.trips.set e b
      points := if s.isForced p then s.points
        else s.points.set p { s.points[p] with value := v, quality := q } } := by
  intro p
  simp only [runDerived, h]
  by_cases forced : s.isForced p = true
  · rw [if_pos forced]
    exact if_pos forced
  · rw [if_neg forced]
    exact if_neg forced

end

/-! ## What a SUM or a RATIO gives -/

/-- The entry gives `v` clamped into the limits and the quality of the first row of R48 that applies;
`bent` when the value is LIMITED for another reason than the clamping. -/
def GivesClamped (s : State) (e : DerivedNo) (lo hi v : Int) (bent : Prop) : Prop :=
  let has := fun q : Quality => ∃ k : Fin 4, k.val < s.tables.derived[e].count.val ∧
    s.points[s.tables.derived[e].members[k].point].quality = q
  ∃ q,
    computeDerived s e =
      (some (if v < lo then BitVec.ofInt 32 lo else if hi < v then BitVec.ofInt 32 hi
        else BitVec.ofInt 32 v, q), s.trips[e]) ∧
    (has .substituted → q = .substituted) ∧
    (¬ has .substituted → has .stale → q = .stale) ∧
    (¬ has .substituted → ¬ has .stale → (has .limited ∨ bent ∨ v < lo ∨ hi < v) → q = .limited) ∧
    (¬ has .substituted → ¬ has .stale → ¬ (has .limited ∨ bent ∨ v < lo ∨ hi < v) → q = .good)

section
variable {s : State} {e : DerivedNo} {lo hi v : Int} {bent : Prop} {given : Word32 × Bool}

theorem givesClamped_of_computeDerived
    (h : computeDerived s e =
      (some (given.1, resultQuality (s.tables.derived[e].memberQualities s) given.2), s.trips[e]))
    (value : given.1 = if v < lo then BitVec.ofInt 32 lo else if hi < v then BitVec.ofInt 32 hi
      else BitVec.ofInt 32 v)
    (flag : given.2 = true ↔ bent ∨ v < lo ∨ hi < v) : GivesClamped s e lo hi v bent := by
  simp only [GivesClamped, ← mem_memberQualities, ← flag]
  exact ⟨_, value ▸ h, resultQuality_substituted, resultQuality_stale, resultQuality_limited,
    resultQuality_good⟩

/-- A value that only the clamping bends. -/
theorem givesClamped_of_clamp
    (hl : s.tables.points[s.tables.derived[e].result].limits = some (lo, hi))
    (hg : given = s.tables.points[s.tables.derived[e].result].clamp v)
    (h : computeDerived s e =
      (some (given.1, resultQuality (s.tables.derived[e].memberQualities s) given.2), s.trips[e])) :
    GivesClamped s e lo hi v False := by
  refine givesClamped_of_computeDerived h (hg ▸ clamp_val hl v) ?_
  rw [hg, clamp_bent hl, decide_eq_true_eq, false_or]

/-- A limit, given for a zero denominator, is not clamped again. -/
theorem givesClamped_limit (hv : given = (BitVec.ofInt 32 v, true)) (above : lo ≤ v) (below : v ≤ hi)
    (h : computeDerived s e =
      (some (given.1, resultQuality (s.tables.derived[e].memberQualities s) given.2), s.trips[e])) :
    GivesClamped s e lo hi v True := by
  subst hv
  refine givesClamped_of_computeDerived h ?_ (iff_of_true rfl (.inl trivial))
  rw [if_neg (Int.not_lt.mpr above), if_neg (Int.not_lt.mpr below)]

end

/-! ## The settled statement -/

/-- Settles O22: each clause is a law above, for the entry's kind. -/
theorem derivedResults : Obligations.DerivedResults := by
  intro s e d result quality value has gives
  refine ⟨fun hk unset => computeDerived_unset hk (mem_memberQualities.mpr unset), ?_, ?_,
    fun v q b => runDerived_of_computeDerived⟩
  · intro lo hi hl known
    have known : .unset ∉ d.memberQualities s := fun h => known (mem_memberQualities.mp h)
    refine ⟨fun hk => ?sum, fun hk _ => ?ratio⟩
    case sum =>
      exact givesClamped_of_clamp hl (by rw [weightedSum_eq_sum]) (computeDerived_sum hk known)
    case ratio =>
      have computed := computeDerived_ratio hk known
      refine ⟨fun hm v size sign => ?_, fun hm => ⟨fun hn ordered => ?_, fun hn ordered => ?_,
        fun hn => ?_⟩⟩
      · exact givesClamped_of_clamp hl
          ((ratioValue_of_ne_zero hm).trans (by rw [eq_perMille size sign])) computed
      · exact givesClamped_limit (ratioValue_zero_of_pos hl hm hn) ordered (Int.le_refl hi) computed
      · exact givesClamped_limit (ratioValue_zero_of_neg hl hm hn) (Int.le_refl lo) ordered computed
      · have given := ratioValue_zero_zero (c := s.tables.points[d.result]) hm hn
        exact givesClamped_of_computeDerived computed
          ((congrArg Prod.fst given).trans (clamp_val hl 0))
          (iff_of_true (congrArg Prod.snd given) (.inl trivial))
  · intro hk trips up down
    refine ⟨fun trusted => ?_, fun untrusted => ?_⟩
    · have trusted : (quality 0).trusted = true := by
        rcases trusted with h | h | h <;> rw [h] <;> rfl
      have tripping {b : Bool} : tripState d (value 0) s.trips[e] = b → trips b :=
        computeDerived_trip_trusted hk trusted
      refine ⟨fun rising => ?_, fun falling => ?_⟩
      · rw [tripState_rising rising] at tripping
        refine ⟨fun set => tripping (if_pos set), fun low clear => tripping ?_,
          fun high low => tripping ?_⟩
        · rw [if_neg (Int.not_le.mpr low), if_pos clear]
        · rw [if_neg (Int.not_le.mpr low), if_neg (Int.not_le.mpr high)]
      · rw [tripState_falling falling] at tripping
        refine ⟨fun set => tripping (if_pos set), fun high clear => tripping ?_,
          fun high low => tripping ?_⟩
        · rw [if_neg (Int.not_le.mpr high), if_pos clear]
        · rw [if_neg (Int.not_le.mpr high), if_neg (Int.not_le.mpr low)]
    · refine computeDerived_trip_untrusted hk ?_
      show (quality 0).trusted = false
      rcases untrusted with h | h | h <;> rw [h] <;> rfl

end Sys2Proof.Machine
end

