-- ==== Sys2Proof/Proofs/HoldGap.lean ====
section
/-! PROOFS. The hold gap of a poll mask (R131): the distance from a set slot is the least one that reaches a
set slot again, and the gap is the greatest of the distances from the set slots. -/

namespace Sys2Proof.Machine

/-! ## The set slots of a mask (R131) -/

/-- The slots below the pattern period that the mask sets, in ascending order. -/
def setSlots (mask : Word16) (p : Nat) : List Nat :=
  (List.range p).filter fun b => mask.getLsbD b

section
variable {mask : Word16} {p b : Nat}

theorem mem_setSlots : b ∈ setSlots mask p ↔ b < p ∧ mask.getLsbD b = true := by
  rw [setSlots, List.mem_filter, List.mem_range]

theorem holdGap_of_setSlots_nil (h : setSlots mask p = []) : holdGap mask p = p :=
  if_pos (List.isEmpty_iff.mpr h)

theorem holdGap_of_setSlots_ne_nil (h : setSlots mask p ≠ []) :
    holdGap mask p = ((setSlots mask p).map (slotDistance mask p)).foldl max 0 := by
  rw [List.foldl_map]
  exact if_neg (mt List.isEmpty_iff.mp h)

/-! ## The distance from a slot to the next (R131) -/

/-- Once round the pattern leads back to the slot itself. -/
theorem getLsbD_once_round (hb : b < p) (set : mask.getLsbD b = true) :
    mask.getLsbD ((b + p) % p) = true := by
  rwa [Nat.add_mod_right, Nat.mod_eq_of_lt hb]

/-- The search for the next slot ends, at the latest once round. -/
theorem find_slotDistance (hb : b < p) (set : mask.getLsbD b = true) :
    ((List.range' 1 p).find? fun k => mask.getLsbD ((b + k) % p)) = some (slotDistance mask p b) := by
  have found : ((List.range' 1 p).find? fun k => mask.getLsbD ((b + k) % p)).isSome = true :=
    List.find?_isSome.mpr ⟨p, List.mem_range'_1.mpr (by omega), getLsbD_once_round hb set⟩
  have distances : (List.range p).map (· + 1) = List.range' 1 p := by
    simp only [List.range'_eq_map_range, Nat.add_comm]
  obtain ⟨d, hd⟩ := Option.isSome_iff_exists.mp found
  rw [slotDistance, distances, hd, Option.getD_some]

/-- A set slot's distance lies within the pattern, reaches a set slot, and is the least that does. -/
theorem slotDistance_isLeast (hb : b < p) (set : mask.getLsbD b = true) :
    1 ≤ slotDistance mask p b ∧ slotDistance mask p b ≤ p ∧
      mask.getLsbD ((b + slotDistance mask p b) % p) = true ∧
      ∀ k, 1 ≤ k → k < slotDistance mask p b → mask.getLsbD ((b + k) % p) = false := by
  obtain ⟨reached, range, sooner⟩ := List.find?_range'_eq_some.mp (find_slotDistance hb set)
  obtain ⟨pos, lt⟩ := List.mem_range'_1.mp range
  refine ⟨pos, by omega, reached, fun k hk before => ?_⟩
  exact (Bool.not_eq_true' _).mp (sooner k hk before)

/-! ## The gap (R131) -/

theorem holdGap_of_no_slot (h : ∀ b, b < p → mask.getLsbD b = false) : holdGap mask p = p := by
  refine holdGap_of_setSlots_nil (List.eq_nil_iff_forall_not_mem.mpr fun b hb => ?_)
  obtain ⟨lt, set⟩ := mem_setSlots.mp hb
  exact absurd set (Bool.eq_false_iff.mp (h b lt))

/-- The gap is the greatest of the set slots' distances. -/
theorem holdGap_isGreatest (h : ∃ b, b < p ∧ mask.getLsbD b = true) :
    (∃ b, b < p ∧ mask.getLsbD b = true ∧ slotDistance mask p b = holdGap mask p) ∧
      ∀ b, b < p → mask.getLsbD b = true → slotDistance mask p b ≤ holdGap mask p := by
  have nonempty : setSlots mask p ≠ [] := by
    obtain ⟨b, hb⟩ := h
    exact List.ne_nil_of_mem (mem_setSlots.mpr hb)
  have distances : (setSlots mask p).map (slotDistance mask p) ≠ [] := mt List.map_eq_nil_iff.mp nonempty
  have largest : ((setSlots mask p).map (slotDistance mask p)).max? = some (holdGap mask p) := by
    rw [holdGap_of_setSlots_ne_nil nonempty, List.foldl_max, List.max?_eq_some_max distances,
      Option.getD_some, Nat.zero_max]
  obtain ⟨mem, bound⟩ := List.max?_eq_some_iff.mp largest
  refine ⟨?_, fun b hb set => bound _ (List.mem_map_of_mem (mem_setSlots.mpr ⟨hb, set⟩))⟩
  obtain ⟨b, hb, gap⟩ := List.mem_map.mp mem
  obtain ⟨lt, set⟩ := mem_setSlots.mp hb
  exact ⟨b, lt, set, gap⟩

end

/-- The comparison is exact, in units of 0.1 ms (R131). -/
theorem meetsHoldGap_iff {g : GlobalCfg} {mask : Word16} {holdLimit : Nat} :
    meetsHoldGap g mask holdLimit = true ↔
      (holdGap mask g.patternPeriod + 1) * g.cyclePeriod ≤ 10 * holdLimit :=
  decide_eq_true_iff

/-! ## The settled statement -/

/-- Settles O24: the gap bounds every slot's distance, and is the distance of some slot. -/
theorem holdGapIsLargestDistance : Obligations.HoldGapIsLargestDistance := by
  intro mask p _ _
  refine ⟨holdGap_of_no_slot, fun g holdLimit hp => hp ▸ meetsHoldGap_iff, fun someSlot => ?_⟩
  obtain ⟨⟨b, hb, set, gap⟩, bound⟩ := holdGap_isGreatest someSlot
  refine ⟨fun b hb set => ?within, b, hb, set, ?attained⟩
  case within =>
    obtain ⟨pos, _, reached, _⟩ := slotDistance_isLeast hb set
    exact ⟨slotDistance mask p b, pos, bound b hb set, reached⟩
  case attained =>
    obtain ⟨pos, le, _, sooner⟩ := slotDistance_isLeast hb set
    exact gap ▸ ⟨pos, le, sooner⟩

end Sys2Proof.Machine
end

