-- ==== Sys2Proof/Proofs/Fetch.lean ====
section
/-! PROOFS. FETCH (R146): the octets that carry a return record, and the oldest record that leaves the return
queue with them. -/

namespace Sys2Proof.Machine

/-! ## The octets of a record (R146) -/

section
variable {tag : BitVec 8} {a : Addr} {p : List Octet}

/-- Three octets stand before the answer's payload, so that 247 are what a telegram has room for. -/
theorem fetchPayload_answered_whole (fits : p.length ≤ 247) :
    fetchPayload (some ⟨tag, .answered a p⟩) = [1, tag, BitVec.ofNat 8 a.val] ++ p := by
  simp only [fetchPayload, if_pos fits, List.take_of_length_le fits]

theorem fetchPayload_answered_cut (long : 247 < p.length) :
    fetchPayload (some ⟨tag, .answered a p⟩) = [6, tag, BitVec.ofNat 8 a.val] ++ p.take 247 := by
  simp only [fetchPayload, if_neg (Nat.not_le.mpr long)]

end

/-! ## The command (R146, R171) -/

section
variable {s : State} (seq : Seq) (payload : List Octet)

/-- A FETCH served at once answers from the head of the return queue and leaves its tail. -/
theorem exec_fetch (h : s.canServe) :
    exec (.fetch seq payload) s = .next (answered s .fetchAnswer seq (fetchPayload s.returns.head?)
      { s with returns := s.returns.drop 1 }) := by
  have ⟨alive, _, noneWaits, _⟩ := h
  have served := serveAtOnce_answers (t := ⟨.fetch, Config.junction, seq, payload⟩)
    (act := fun s => (.fetchAnswer, fetchPayload s.returns.head?, { s with returns := s.returns.drop 1 }))
    (w := { s with returns := s.returns.drop 1 }) h rfl rfl noneWaits rfl
  exact (whenAlive_of alive _).trans (congrArg _ served)

theorem exec_fetch_of_nil (h : s.canServe) (empty : s.returns = []) :
    exec (.fetch seq payload) s = .next (answered s .fetchAnswer seq [0] s) := by
  have kept : { s with returns := s.returns.drop 1 } = s := by rw [empty, List.drop_nil, ← empty]
  rw [exec_fetch seq payload h, kept, empty]
  rfl

theorem exec_fetch_of_cons {r : ReturnRecord} {rest : List ReturnRecord} (h : s.canServe)
    (queue : s.returns = r :: rest) :
    exec (.fetch seq payload) s =
      .next (answered s .fetchAnswer seq (fetchPayload (some r)) { s with returns := rest }) := by
  rw [exec_fetch seq payload h, queue]
  rfl

end

/-! ## The settled statement -/

/-- Settles O32: the oldest record leaves the queue, and its outcome decides the octets. -/
theorem fetchTakesOldest : Obligations.FetchTakesOldest := by
  intro s seq payload serves
  refine ⟨exec_fetch_of_nil seq payload serves, ?_⟩
  intro ⟨tag, outcome⟩ rest queue got
  have carried {octets : List Octet} (h : fetchPayload (some ⟨tag, outcome⟩) = octets) : got octets :=
    h ▸ exec_fetch_of_cons seq payload serves queue
  refine ⟨?answered, ?garbled, ?noAnswer, ?sent, ?dropped⟩
  case answered =>
    rintro a p rfl
    exact ⟨fun fits => carried (fetchPayload_answered_whole fits),
      fun long => carried (fetchPayload_answered_cut long)⟩
  all_goals
    rintro rfl
    exact carried rfl

end Sys2Proof.Machine
end
